-- ==== Sys2Proof/Word.lean ====
section
/-! DEFINITION. The two plain word types every file uses. -/

namespace Sys2Proof

/-- One byte of frame data, or one byte on the operation port. -/
abbrev Byte := BitVec 8

/-- One 16-bit buffer word: a data word, a control word or a raw word (00_scope R6 `WORD_W`, 30_encoding R81). -/
abbrev Word := BitVec 16

/-- A word index, `INDEX_W = 16` bits (10_state R23). -/
abbrev Index := BitVec 16

end Sys2Proof
end

