-- ==== Sys2Proof/Config.lean ====
section
/-! DEFINITION. What an instance is configured with (00_scope R7, R8), as plain data, and the free values. -/

namespace Sys2Proof

/-- The command types of the frame factory, in the order 30_encoding R98 lists them. -/
inductive CmdType where
  | reportServerId | reportServerStatus | changeMode
  | broadcastStepMotor | unicastStepMotor
  | broadcastForceDemand | unicastSingleAxisForceDemand | unicastDualAxisForceDemand
  | pneumaticForceStatus | electromechanicalForceAndStatus
  | setAdcScanRate | reportAdcScanRate | adcChannelCalibration
  | resetIlc | readCalibration
  | readDcaPressure | reportDcaId | reportDcaStatus
  | reportLvdt | broadcastFreezeSensor
  | setBoostValveGains | readBoostValveGains
  | nop
deriving DecidableEq, Repr

/-- The typed writer a payload field is written with (45_frame_factory R209). -/
inductive FieldType where
  | u8 | i8 | i16 | i24 | i32 | u16 | u32 | sgl | dbl
deriving DecidableEq, Repr

/-- The name of a payload field: which of the arguments of `BUILD` and `UPDATE` it stands for (45_frame_factory R210).
A field of an array stands for the elements from `first` on. `slew` carries the two byte values of the flag,
which R210 makes part of the table. `other` is a field that only `FRAME_CMD` fills, by position. -/
inductive FieldName where
  | counter
  | slew (whenSet whenClear : Int)
  | saaPrimary (first : Nat)
  | daaPrimary (first : Nat)
  | daaSecondary (first : Nat)
  | steps (first : Nat)
  | other (id : Nat)
deriving DecidableEq, Repr

/-- One payload field, `{name, type, count}` (45_frame_factory R209). -/
structure PayloadField where
  name : FieldName
  type : FieldType
  count : Nat
deriving DecidableEq, Repr

/-- The tail of a frame: wait for a response, or a delay (45_frame_factory R201). -/
inductive Tail where
  | unicast | broadcast
deriving DecidableEq, Repr

/-- One entry of `CMD_TABLE` (45_frame_factory R209). 30_encoding R98 says which tail each command has: `tailKind`, which
`Config.legal` holds the table to. -/
structure CmdEntry where
  function : Byte
  payload : List PayloadField
  tail : Tail
deriving DecidableEq, Repr

/-- Which broadcast frame opens a hardpoint section (47_buslist R257). -/
inductive HpBroadcast where
  | none | stepMotor | freeze
deriving DecidableEq, Repr

/-- One entry of `VARIANT_PROFILE`, its six fields (47_buslist R257). -/
structure Profile where
  faForceDemand : Bool
  faStatus : Bool
  hpBroadcast : HpBroadcast
  hpStatus : Bool
  hmStatus : Bool
  hmLVDT : Bool
deriving DecidableEq, Repr

/-- The four bus-list variants, numbered 0 to 3 in this order (10_state R29). -/
inductive Variant where
  | parked | raised | active | freezeSensor
deriving DecidableEq, Repr

/-- `VARIANT_PROFILE`, one profile a variant. -/
structure ProfileTable where
  parked : Profile
  raised : Profile
  active : Profile
  freezeSensor : Profile
deriving DecidableEq, Repr

/-- The parameters and tables of one instance (00_scope R7, R8). No operation writes them. -/
structure Config where
  capacity : Nat
  dataTag : Word
  eofWord : Word
  timestampWord : Word
  swtrigWord : Word
  irqtrigWord : Word
  rxEofWord : Word
  bcastMod : Nat
  subnetCode : Vector Word 5
  nFA : Nat
  nHP : Nat
  nHM : Nat
  nopWord : Word
  cmdTable : List (CmdType × CmdEntry)
  timeout : List (CmdType × BitVec 32)
  profiles : ProfileTable
deriving DecidableEq, Repr

/-- FREE VALUE (log 10, DESIGN CHOICE, safe). The setpoint read at an index that lies outside the given list:
10_state R40 gives the secondary list no length. Applied to the free-value counter, the subnet, the device's address and
whether the secondary list is read. It has no body: nothing can be proved of its value. -/
opaque Config.absentSetpoint : Nat → Nat → Nat → Bool → Int

/-- FREE VALUE (log 11, DESIGN CHOICE, safe). The block length `CLOSE_SUBNET` stores when `cursor - lenIndex - 1` is
negative (47_buslist R251 states no word for it). Applied to the free-value counter. It has no body. -/
opaque Config.unstatedLength : Nat → Word

end Sys2Proof
end

