-- ==== Sys2Proof/Machine/Instance.lean ====
section
/-! DEFINITION. The constants the document fixes (00_scope R6), what makes a configuration legal (00_scope R7,
30_encoding R85, R98), and the instance `State.reset` is configured with (log 1, log 2). -/

namespace Sys2Proof

/-- `DELAY_US_OP` (00_scope R6). -/
def delayUsOp : Word := 0x4000#16
/-- `DELAY_MS_OP` (00_scope R6). -/
def delayMsOp : Word := 0x5000#16
/-- `WAITRX_US_OP` (00_scope R6). -/
def waitrxUsOp : Word := 0x6000#16
/-- `WAITRX_MS_OP` (00_scope R6). -/
def waitrxMsOp : Word := 0x9000#16
/-- `US_LIMIT`: below it a duration is encoded in microseconds (00_scope R6). -/
def usLimit : Nat := 4096
/-- The largest duration whose millisecond argument fits 12 bits (43_control_words R166). -/
def maxDuration : Nat := 4094999
/-- `CRC_POLY` (00_scope R6). -/
def crcPoly : BitVec 16 := 0xA001#16
/-- `CRC_INIT` (00_scope R6). -/
def crcInit : BitVec 16 := 0xFFFF#16
/-- `ADDR_BCAST_FA` (00_scope R6). -/
def addrBcastFA : Byte := 248#8
/-- `ADDR_BCAST_HP` (00_scope R6). -/
def addrBcastHP : Byte := 249#8

/-- The high nibble of a wire word, which alone decides its class (30_encoding R81). -/
def nibble (w : Word) : BitVec 4 := w.extractLsb' 12 4

/-- The high nibbles of the ten wire-word kinds under a configuration (30_encoding R85). -/
def Config.nibbles (c : Config) : List (BitVec 4) :=
  [nibble c.dataTag, nibble c.eofWord, nibble c.timestampWord, 4#4, 5#4, 6#4, nibble c.irqtrigWord,
    nibble c.swtrigWord, 9#4, nibble c.rxEofWord]

/-- The constraints the spec puts on the parameters: 00_scope R7 for `CAPACITY`, `DATA_TAG`, `BCAST_MOD`; 30_encoding R85
for the literals, which must keep the ten kinds distinguishable by high nibble. -/
def Config.parametersLegal (c : Config) : Bool :=
  decide (1 ≤ c.capacity) && decide (c.capacity ≤ 65535) && decide (c.dataTag &&& 0x01FE#16 = 0#16)
    && decide (2 ≤ c.bcastMod) && decide (c.bcastMod ≤ 256) && decide c.nibbles.Nodup

/-- The tail kind of each command type (30_encoding R98). `NOP` has none: it is no frame. -/
def tailKind : CmdType → Option Tail
  | .broadcastStepMotor | .broadcastForceDemand | .broadcastFreezeSensor => some .broadcast
  | .reportServerId | .reportServerStatus | .changeMode | .unicastStepMotor | .unicastSingleAxisForceDemand
  | .unicastDualAxisForceDemand | .pneumaticForceStatus | .electromechanicalForceAndStatus | .setAdcScanRate
  | .reportAdcScanRate | .adcChannelCalibration | .resetIlc | .readCalibration | .readDcaPressure | .reportDcaId
  | .reportDcaStatus | .reportLvdt | .setBoostValveGains | .readBoostValveGains => some .unicast
  | .nop => none

/-- A field type of one byte. -/
def FieldType.oneByte : FieldType → Bool
  | .u8 | .i8 => true
  | .i16 | .i24 | .i32 | .u16 | .u32 | .sgl | .dbl => false

/-- The broadcast counter. -/
def PayloadField.isCounter (f : PayloadField) : Bool := decide (f.name = .counter)

/-- The slew flag. -/
def PayloadField.isSlew (f : PayloadField) : Bool :=
  match f.name with
  | .slew _ _ => true
  | _ => false

/-- Step counts. -/
def PayloadField.isSteps (f : PayloadField) : Bool :=
  match f.name with
  | .steps _ => true
  | _ => false

/-- The slots a field fills of the array that `first` picks: from the field's first slot on, as many as it counts. -/
def PayloadField.slots (first : FieldName → Option Nat) (f : PayloadField) : List Nat :=
  match first f.name with
  | some n => List.range' n f.count
  | none => []

/-- The payload carries every slot below `n` of an array exactly once: that none is missing and none stands twice is the model's
choice (DESIGN CHOICE, log 14). -/
def carriesSlots (first : FieldName → Option Nat) (n : Nat) (fs : List PayloadField) : Bool :=
  decide ((fs.flatMap (PayloadField.slots first)).length = n)
    && (List.range n).all (fun k => (fs.flatMap (PayloadField.slots first)).contains k)

/-- The payload carries the broadcast counter once, as one byte. The one byte is 46_roundrobin R233 and decision D19; that the
field must be there, and stand once, is the model's choice (DESIGN CHOICE, log 14). -/
def carriesCounter (fs : List PayloadField) : Bool :=
  decide (fs.countP PayloadField.isCounter = 1)
    && fs.all (fun f => !f.isCounter || (decide (f.count = 1) && f.type.oneByte))

/-- The first single-axis slot a field fills. -/
def saaPrimaryFirst : FieldName → Option Nat
  | .saaPrimary n => some n
  | _ => none

/-- The first dual-axis primary slot a field fills. -/
def daaPrimaryFirst : FieldName → Option Nat
  | .daaPrimary n => some n
  | _ => none

/-- The first dual-axis secondary slot a field fills. -/
def daaSecondaryFirst : FieldName → Option Nat
  | .daaSecondary n => some n
  | _ => none

/-- What 45_frame_factory R210 says the broadcast frames carry, each thing once (DESIGN CHOICE, log 14): the counter in all three; the slew flag, 16 single-axis and
32 dual-axis primary and secondary setpoints in the force demand; step counts in the step-motor frame. R210 leaves the order,
the other widths and the slew bytes to the table; how many step counts there are it does not say, and the model asks for a
field of them only (DESIGN CHOICE, log 14). -/
def payloadLegal : CmdType → List PayloadField → Bool
  | .broadcastForceDemand, fs =>
      carriesCounter fs && decide (fs.countP PayloadField.isSlew = 1)
        && fs.all (fun f => !f.isSlew || decide (f.count = 1))
        && carriesSlots saaPrimaryFirst 16 fs && carriesSlots daaPrimaryFirst 32 fs
        && carriesSlots daaSecondaryFirst 32 fs
  | .broadcastStepMotor, fs => carriesCounter fs && fs.any PayloadField.isSteps
  | .broadcastFreezeSensor, fs => carriesCounter fs
  | _, _ => true

/-- Every entry of `CMD_TABLE` has the tail kind of its command (30_encoding R98), so `NOP` has no entry, and carries what
45_frame_factory R210 and 46_roundrobin R233 say its frame carries. That a table which omits such a field is no instance,
rather than one whose frames lack it, is the model's reading (DESIGN CHOICE, log 14). -/
def Config.tablesLegal (c : Config) : Bool :=
  c.cmdTable.all (fun p => decide (tailKind p.1 = some p.2.tail) && payloadLegal p.1 p.2.payload)

/-- A legal instance: its parameters and literals, and its command table. A statement that needs the
parameters only assumes `Config.parametersLegal`, and so holds for every command table. -/
def Config.legal (c : Config) : Bool := c.parametersLegal && c.tablesLegal

/-- The default profile of 47_buslist R257 for every variant but FreezeSensor. -/
def Profile.standard : Profile :=
  { faForceDemand := true, faStatus := true, hpBroadcast := .stepMotor, hpStatus := true, hmStatus := true,
    hmLVDT := true }

/-- The default payload of the broadcast force demand (45_frame_factory R210). -/
def forceDemandPayload : List PayloadField :=
  ⟨.counter, .u8, 1⟩ :: ⟨.slew 255 0, .u8, 1⟩ :: ⟨.saaPrimary 0, .i24, 16⟩ ::
    (List.range 32).flatMap (fun k => [⟨.daaPrimary k, .i24, 1⟩, ⟨.daaSecondary k, .i24, 1⟩])

/-- `CMD_TABLE` of the spec's test configuration (95_test_vectors, Test configuration), log 2. -/
def testCmdTable : List (CmdType × CmdEntry) :=
  [(.broadcastForceDemand, ⟨75#8, forceDemandPayload, .broadcast⟩),
   (.pneumaticForceStatus, ⟨76#8, [], .unicast⟩),
   (.reportServerStatus, ⟨18#8, [], .unicast⟩),
   (.broadcastStepMotor, ⟨66#8, [⟨.counter, .u8, 1⟩, ⟨.steps 0, .i8, 6⟩], .broadcast⟩),
   (.broadcastFreezeSensor, ⟨68#8, [⟨.counter, .u8, 1⟩], .broadcast⟩),
   (.electromechanicalForceAndStatus, ⟨67#8, [], .unicast⟩),
   (.readDcaPressure, ⟨119#8, [], .unicast⟩),
   (.reportDcaStatus, ⟨121#8, [], .unicast⟩),
   (.reportLvdt, ⟨122#8, [], .unicast⟩)]

/-- `TIMEOUT` of the spec's test configuration (95_test_vectors, Test configuration), log 2. -/
def testTimeout : List (CmdType × BitVec 32) :=
  [(.broadcastForceDemand, 450#32), (.pneumaticForceStatus, 1800#32), (.reportServerStatus, 600#32),
   (.broadcastStepMotor, 370#32), (.broadcastFreezeSensor, 370#32), (.electromechanicalForceAndStatus, 1800#32),
   (.readDcaPressure, 600#32), (.reportDcaStatus, 600#32), (.reportLvdt, 4500#32)]

/-- The instance `State.reset` is configured with: the defaults of 00_scope R7 (PRESUMED, log 1) and the tables of the
spec's test configuration (DESIGN CHOICE, log 2). -/
def Config.standard : Config :=
  { capacity := 5120, dataTag := 0x1200#16, eofWord := 0x20DA#16, timestampWord := 0x3000#16,
    swtrigWord := 0x8000#16, irqtrigWord := 0x7000#16, rxEofWord := 0xA000#16, bcastMod := 16,
    subnetCode := #v[1#16, 2#16, 3#16, 4#16, 5#16], nFA := 156, nHP := 6, nHM := 6, nopWord := 0x4000#16,
    cmdTable := testCmdTable, timeout := testTimeout,
    profiles :=
      { parked := Profile.standard, raised := Profile.standard, active := Profile.standard,
        freezeSensor := { Profile.standard with hpBroadcast := .freeze } } }

end Sys2Proof
end

