-- ==== Sys2Proof/Syntax.lean ====
section
/-! DEFINITION. The instructions: one constructor for every row of the opcode table, and what is presented at the port. -/

namespace Sys2Proof

/-- The three device classes (00_scope R12). -/
inductive DeviceClass where
  | fa | hp | hm
deriving DecidableEq, Repr

/-- One device record, the nine fields of 10_state R35. `type = none` is a record whose `Type` is none of FA, HP, HM:
`LOAD_TOPOLOGY` must be able to receive it and reject it (47_buslist R255). R35 gives `Subnet` the range 0..4 and no width:
that it is one byte is the model's choice (DESIGN CHOICE, log 4). `Address` is one byte by R35. -/
structure ILCMap where
  type : Option DeviceClass
  subnet : Byte
  address : Byte
  actuatorId : Int
  dataIndex : Nat
  xDataIndex : Int
  yDataIndex : Int
  secondaryDataIndex : Int
  disabled : Bool
deriving DecidableEq, Repr

/-- One constructor per row of spec/opcode_table.json: ten kinds of wire word (30_encoding R82 to R87), then the 51
operations (30_encoding R95). A signed operand of a stated width is its two's complement pattern. The operands of
`LVDT_STEP`, `OPEN_SUBNET` and the variant of `BUILD` have a range and no stated width: that each is one byte is the model's
choice (DESIGN CHOICE, log 4). -/
inductive Instr where
  -- wire words
  | wData (b : Byte)
  | wEof
  | wTimestamp
  | wDelayUs (v : BitVec 12)
  | wDelayMs (v : BitVec 12)
  | wWaitrxUs (v : BitVec 12)
  | wIrqtrig
  | wSwtrig
  | wWaitrxMs (v : BitVec 12)
  | wRxEof
  -- cursor, length and raw words
  | getIndex
  | setIndex (i : Index)
  | incIndex (n : BitVec 16)
  | reset
  | getLength
  | setLength (n : Index)
  | writeRaw (w : Word)
  | readRaw
  | poke (i : Index) (w : Word)
  -- typed writers
  | writeU8 (v : BitVec 8)
  | writeI8 (v : BitVec 8)
  | writeI16 (v : BitVec 16)
  | writeI24 (v : BitVec 32)
  | writeI32 (v : BitVec 32)
  | writeU16 (v : BitVec 16)
  | writeU32 (v : BitVec 32)
  | writeSgl (v : BitVec 32)
  | writeDbl (v : BitVec 64)
  | writeCrc (n : BitVec 16)
  -- control words
  | writeEof
  | writeTimestamp
  | writeDelay (T : BitVec 32)
  | writeWaitrx (T : BitVec 32)
  | writeSwtrigger
  | writeIrqtrigger
  -- readers and predicates
  | readU8
  | readI8
  | readI16
  | readI24
  | readI32
  | readU16
  | readU32
  | readSgl
  | readDbl
  | readCrc
  | endOfFrame
  | endOfBuffer
  -- frames
  | frameUnicast (a f : Byte) (d : List Byte) (T : BitVec 32)
  | frameBroadcast (a f : Byte) (d : List Byte) (T : BitVec 32)
  | frameNop (n : BitVec 16)
  | frameCmd (cmd : CmdType) (a : Byte) (args : List Int)
  -- counters and subnet blocks
  | rrInc (index count : Nat)
  | bcastInc (current : Byte)
  | lvdtStep (c : Byte)
  | openSubnet (s : Byte)
  | closeSubnet
  -- bus list
  | loadTopology (t : List ILCMap)
  | setDisabled (cls : DeviceClass) (i : Nat) (b : Bool)
  | build (v : Byte) (primary secondary : List Int) (slew : Bool) (steps : List Int)
  | update (primary secondary : List Int) (slew : Bool) (steps : List Int)
  | getExpected (cls : DeviceClass) (i : Nat)
deriving DecidableEq, Repr

/-- One thing presented to the block: an operation (its code, then its operand lanes, as bytes, log 4), or a wire word
that the serializer executes from its own copy (log 7). -/
inductive Request where
  | operation (bytes : List Byte)
  | wireWord (w : Word)
deriving DecidableEq, Repr

end Sys2Proof
end

