-- ==== Sys2Proof/WellFormed.lean ====
section
/-! DEFINITION. Which instructions the operation port can carry. A fixed-width operand always can be; a list must have
fewer than 2^16 entries and an integer without a stated width must fit a 64-bit lane (log 4). Whether an operand lies in
the domain its operation gives it is not asked here: the operation itself turns such operands away. -/

namespace Sys2Proof

/-- An unsigned integer that fits a 64-bit lane. -/
def natFits (n : Nat) : Bool := decide (n < 2 ^ 64)

/-- A signed integer that fits a 64-bit lane. -/
def intFits (z : Int) : Bool := decide (-(2 ^ 63) ≤ z) && decide (z < 2 ^ 63)

/-- A list whose length fits the 16-bit count lane and whose entries all fit. -/
def listFits {α : Type} (fits : α → Bool) (xs : List α) : Bool := decide (xs.length < 2 ^ 16) && xs.all fits

/-- A device record whose integers all fit. -/
def ILCMap.fits (d : ILCMap) : Bool :=
  intFits d.actuatorId && natFits d.dataIndex && intFits d.xDataIndex && intFits d.yDataIndex
    && intFits d.secondaryDataIndex

/-- The instruction can be presented at the port: every list and every integer fits its lanes. -/
def Instr.wellFormed : Instr → Bool
  | .frameUnicast _ _ d _ => listFits (fun _ => true) d
  | .frameBroadcast _ _ d _ => listFits (fun _ => true) d
  | .frameCmd _ _ args => listFits intFits args
  | .rrInc index count => natFits index && natFits count
  | .loadTopology t => listFits ILCMap.fits t
  | .setDisabled _ i _ => natFits i
  | .build _ primary secondary _ steps =>
      listFits intFits primary && listFits intFits secondary && listFits intFits steps
  | .update primary secondary _ steps =>
      listFits intFits primary && listFits intFits secondary && listFits intFits steps
  | .getExpected _ i => natFits i
  | .wData _ | .wEof | .wTimestamp | .wDelayUs _ | .wDelayMs _ | .wWaitrxUs _ | .wIrqtrig | .wSwtrig | .wWaitrxMs _
  | .wRxEof | .getIndex | .setIndex _ | .incIndex _ | .reset | .getLength | .setLength _ | .writeRaw _ | .readRaw
  | .poke _ _ | .writeU8 _ | .writeI8 _ | .writeI16 _ | .writeI24 _ | .writeI32 _ | .writeU16 _ | .writeU32 _
  | .writeSgl _ | .writeDbl _ | .writeCrc _ | .writeEof | .writeTimestamp | .writeDelay _ | .writeWaitrx _
  | .writeSwtrigger | .writeIrqtrigger | .readU8 | .readI8 | .readI16 | .readI24 | .readI32 | .readU16 | .readU32
  | .readSgl | .readDbl | .readCrc | .endOfFrame | .endOfBuffer | .frameNop _ | .bcastInc _ | .lvdtStep _
  | .openSubnet _ | .closeSubnet => true

end Sys2Proof
end

