-- ==== Sys2Proof/Decode.lean ====
section
/-! DEFINITION. The two encodings (30_encoding R80): wire words, decoded and encoded under a configuration's literals, and
operations, decoded from and encoded to the bytes presented at the port. The decoder comes first, the encoder after it. -/

namespace Sys2Proof

/-! ## Wire words -/

/-- `tag(b) = DATA_TAG | (b << 1)` (30_encoding R82). -/
def tag (c : Config) (b : Byte) : Word := c.dataTag ||| (b.setWidth 16 <<< 1)

/-- `untag(w) = w[8:1]`, whatever the tag bits (30_encoding R83). -/
def untag (w : Word) : Byte := w.extractLsb' 1 8

/-- A control word: opcode in the high nibble, argument in the low 12 bits (30_encoding R84). -/
def controlWord (base : Word) (arg : BitVec 12) : Word := base ||| arg.setWidth 16

/-- The kinds of wire word (30_encoding R85). -/
inductive WireKind where
  | data | eof | timestamp | delayUs | delayMs | waitrxUs | irqtrig | swtrig | waitrxMs | rxEof
deriving DecidableEq, Repr

/-- The word classifier of 30_encoding R85: the high nibble alone decides, and an unassigned nibble is invalid (R92). -/
def classify (c : Config) (w : Word) : Option WireKind :=
  if nibble w = nibble c.dataTag then some .data
  else if nibble w = nibble c.eofWord then some .eof
  else if nibble w = nibble c.timestampWord then some .timestamp
  else if nibble w = 4#4 then some .delayUs
  else if nibble w = 5#4 then some .delayMs
  else if nibble w = 6#4 then some .waitrxUs
  else if nibble w = nibble c.irqtrigWord then some .irqtrig
  else if nibble w = nibble c.swtrigWord then some .swtrig
  else if nibble w = 9#4 then some .waitrxMs
  else if nibble w = nibble c.rxEofWord then some .rxEof
  else none

/-- Why the decoder names no instruction. -/
inductive DecodeError where
  /-- no wire word has these bits -/
  | noWireWord (w : Word)
  /-- no operation has this code (30_encoding R93) -/
  | unknownCode (code : Byte)
  /-- an operand lane is missing -/
  | missingOperand
  /-- a lane holds a code that names no value of its operand's type -/
  | badOperand (lane : Byte)
deriving DecidableEq, Repr

/-- The wire word an encoding row describes: every fixed bit must match, the literal's low bits too (30_encoding R82,
R86; log 19). -/
def decodeWire (c : Config) (w : Word) : Except DecodeError Instr :=
  match classify c w with
  | some .data => if w &&& ~~~0x01FE#16 = c.dataTag then .ok (.wData (untag w)) else .error (.noWireWord w)
  | some .eof => if w = c.eofWord then .ok .wEof else .error (.noWireWord w)
  | some .timestamp => if w = c.timestampWord then .ok .wTimestamp else .error (.noWireWord w)
  | some .delayUs => .ok (.wDelayUs (w.setWidth 12))
  | some .delayMs => .ok (.wDelayMs (w.setWidth 12))
  | some .waitrxUs => .ok (.wWaitrxUs (w.setWidth 12))
  | some .irqtrig => if w = c.irqtrigWord then .ok .wIrqtrig else .error (.noWireWord w)
  | some .swtrig => if w = c.swtrigWord then .ok .wSwtrig else .error (.noWireWord w)
  | some .waitrxMs => .ok (.wWaitrxMs (w.setWidth 12))
  | some .rxEof => if w = c.rxEofWord then .ok .wRxEof else .error (.noWireWord w)
  | none => .error (.noWireWord w)

/-! ## Operands on the port's byte lanes (log 4) -/

/-- A reader of operand lanes: the value and the lanes after it. -/
abbrev Parse (α : Type) := List Byte → Except DecodeError (α × List Byte)

/-- One lane. -/
def takeByte : Parse Byte
  | [] => .error .missingOperand
  | b :: bs => .ok (b, bs)

/-- Two lanes, the high byte first. -/
def take16 : Parse (BitVec 16) := fun bs => do
  let (h, bs) ← takeByte bs
  let (l, bs) ← takeByte bs
  .ok (h ++ l, bs)

/-- Four lanes, the high byte first. -/
def take32 : Parse (BitVec 32) := fun bs => do
  let (h, bs) ← take16 bs
  let (l, bs) ← take16 bs
  .ok (h ++ l, bs)

/-- Eight lanes, the high byte first. -/
def take64 : Parse (BitVec 64) := fun bs => do
  let (h, bs) ← take32 bs
  let (l, bs) ← take32 bs
  .ok (h ++ l, bs)

/-- An unsigned integer without a stated width: a 64-bit lane. -/
def takeNat : Parse Nat := fun bs => do
  let (v, bs) ← take64 bs
  .ok (v.toNat, bs)

/-- A signed integer without a stated width: a 64-bit two's complement lane. -/
def takeInt : Parse Int := fun bs => do
  let (v, bs) ← take64 bs
  .ok (v.toInt, bs)

/-- One bit: a lane holding 0 or 1. -/
def takeBit : Parse Bool := fun bs => do
  let (b, bs) ← takeByte bs
  match b.toNat with
  | 0 => .ok (false, bs)
  | 1 => .ok (true, bs)
  | _ => .error (.badOperand b)

/-- The class a lane value names: 0, 1, 2 for FA, HP, HM. -/
def classOf (b : Byte) : Option DeviceClass :=
  match b.toNat with
  | 0 => some .fa
  | 1 => some .hp
  | 2 => some .hm
  | _ => none

/-- A device class. -/
def takeClass : Parse DeviceClass := fun bs => do
  let (b, bs) ← takeByte bs
  match classOf b with
  | some k => .ok (k, bs)
  | none => .error (.badOperand b)

/-- The command types in the order of 30_encoding R98, which numbers them at the port. -/
def cmdTypes : List CmdType :=
  [.reportServerId, .reportServerStatus, .changeMode, .broadcastStepMotor, .unicastStepMotor, .broadcastForceDemand,
   .unicastSingleAxisForceDemand, .unicastDualAxisForceDemand, .pneumaticForceStatus,
   .electromechanicalForceAndStatus, .setAdcScanRate, .reportAdcScanRate, .adcChannelCalibration, .resetIlc,
   .readCalibration, .readDcaPressure, .reportDcaId, .reportDcaStatus, .reportLvdt, .broadcastFreezeSensor,
   .setBoostValveGains, .readBoostValveGains, .nop]

/-- A command type: a lane holding its number. -/
def takeCmd : Parse CmdType := fun bs => do
  let (b, bs) ← takeByte bs
  match cmdTypes[b.toNat]? with
  | some k => .ok (k, bs)
  | none => .error (.badOperand b)

/-- `n` values of one kind. -/
def takeList {α : Type} (p : Parse α) : Nat → Parse (List α)
  | 0, bs => .ok ([], bs)
  | n + 1, bs => do
    let (x, bs) ← p bs
    let (xs, bs) ← takeList p n bs
    .ok (x :: xs, bs)

/-- A list: a 16-bit count, then its entries. -/
def takeCounted {α : Type} (p : Parse α) : Parse (List α) := fun bs => do
  let (n, bs) ← take16 bs
  takeList p n.toNat bs

/-- A device record, its nine fields in the order of 10_state R35. `Subnet` has a range and no stated width; its one-byte lane
is the model's choice (DESIGN CHOICE, log 4). -/
def takeMap : Parse ILCMap := fun bs => do
  let (ty, bs) ← takeByte bs
  let (subnet, bs) ← takeByte bs
  let (address, bs) ← takeByte bs
  let (actuatorId, bs) ← takeInt bs
  let (dataIndex, bs) ← takeNat bs
  let (x, bs) ← takeInt bs
  let (y, bs) ← takeInt bs
  let (secondary, bs) ← takeInt bs
  let (disabled, bs) ← takeBit bs
  .ok (⟨classOf ty, subnet, address, actuatorId, dataIndex, x, y, secondary, disabled⟩, bs)

/-- An operation without operands. -/
def args0 (i : Instr) (_ : List Byte) : Except DecodeError Instr := .ok i

/-- An operation with one operand. -/
def args1 {α : Type} (f : α → Instr) (p : Parse α) (bs : List Byte) : Except DecodeError Instr := do
  let (a, _) ← p bs
  .ok (f a)

/-- An operation with two operands. -/
def args2 {α β : Type} (f : α → β → Instr) (p : Parse α) (q : Parse β) (bs : List Byte) :
    Except DecodeError Instr := do
  let (a, bs) ← p bs
  args1 (f a) q bs

/-- An operation with three operands. -/
def args3 {α β γ : Type} (f : α → β → γ → Instr) (p : Parse α) (q : Parse β) (r : Parse γ) (bs : List Byte) :
    Except DecodeError Instr := do
  let (a, bs) ← p bs
  args2 (f a) q r bs

/-- An operation with four operands. -/
def args4 {α β γ δ : Type} (f : α → β → γ → δ → Instr) (p : Parse α) (q : Parse β) (r : Parse γ) (t : Parse δ)
    (bs : List Byte) : Except DecodeError Instr := do
  let (a, bs) ← p bs
  args3 (f a) q r t bs

/-- An operation with five operands. -/
def args5 {α β γ δ ε : Type} (f : α → β → γ → δ → ε → Instr) (p : Parse α) (q : Parse β) (r : Parse γ)
    (t : Parse δ) (u : Parse ε) (bs : List Byte) : Except DecodeError Instr := do
  let (a, bs) ← p bs
  args4 (f a) q r t u bs

/-- The operation a code selects, with its operands read from the lanes beside it; lanes it does not use are not looked
at (30_encoding R95; an unknown code selects none, R93). The operands of 0x52, 0x53 and the variant of 0x62 have a range and
no stated width; their one-byte lanes are the model's choice (DESIGN CHOICE, log 4), so 256 and up cannot be presented. -/
def decodeCode (code : Byte) (rest : List Byte) : Except DecodeError Instr :=
  match code.toNat with
  | 0x00 => args0 .getIndex rest
  | 0x01 => args1 .setIndex take16 rest
  | 0x02 => args1 .incIndex take16 rest
  | 0x03 => args0 .reset rest
  | 0x04 => args0 .getLength rest
  | 0x05 => args1 .setLength take16 rest
  | 0x06 => args1 .writeRaw take16 rest
  | 0x07 => args0 .readRaw rest
  | 0x08 => args2 .poke take16 take16 rest
  | 0x10 => args1 .writeU8 takeByte rest
  | 0x11 => args1 .writeI8 takeByte rest
  | 0x12 => args1 .writeI16 take16 rest
  | 0x13 => args1 .writeI24 take32 rest
  | 0x14 => args1 .writeI32 take32 rest
  | 0x15 => args1 .writeU16 take16 rest
  | 0x16 => args1 .writeU32 take32 rest
  | 0x17 => args1 .writeSgl take32 rest
  | 0x18 => args1 .writeDbl take64 rest
  | 0x19 => args1 .writeCrc take16 rest
  | 0x20 => args0 .writeEof rest
  | 0x21 => args0 .writeTimestamp rest
  | 0x22 => args1 .writeDelay take32 rest
  | 0x23 => args1 .writeWaitrx take32 rest
  | 0x24 => args0 .writeSwtrigger rest
  | 0x25 => args0 .writeIrqtrigger rest
  | 0x30 => args0 .readU8 rest
  | 0x31 => args0 .readI8 rest
  | 0x32 => args0 .readI16 rest
  | 0x33 => args0 .readI24 rest
  | 0x34 => args0 .readI32 rest
  | 0x35 => args0 .readU16 rest
  | 0x36 => args0 .readU32 rest
  | 0x37 => args0 .readSgl rest
  | 0x38 => args0 .readDbl rest
  | 0x39 => args0 .readCrc rest
  | 0x3A => args0 .endOfFrame rest
  | 0x3B => args0 .endOfBuffer rest
  | 0x40 => args4 .frameUnicast takeByte takeByte (takeCounted takeByte) take32 rest
  | 0x41 => args4 .frameBroadcast takeByte takeByte (takeCounted takeByte) take32 rest
  | 0x42 => args1 .frameNop take16 rest
  | 0x43 => args3 .frameCmd takeCmd takeByte (takeCounted takeInt) rest
  | 0x50 => args2 .rrInc takeNat takeNat rest
  | 0x51 => args1 .bcastInc takeByte rest
  | 0x52 => args1 .lvdtStep takeByte rest
  | 0x53 => args1 .openSubnet takeByte rest
  | 0x54 => args0 .closeSubnet rest
  | 0x60 => args1 .loadTopology (takeCounted takeMap) rest
  | 0x61 => args3 .setDisabled takeClass takeNat takeBit rest
  | 0x62 => args5 .build takeByte (takeCounted takeInt) (takeCounted takeInt) takeBit (takeCounted takeInt) rest
  | 0x63 => args4 .update (takeCounted takeInt) (takeCounted takeInt) takeBit (takeCounted takeInt) rest
  | 0x64 => args2 .getExpected takeClass takeNat rest
  | _ => .error (.unknownCode code)

/-- The operation presented as bytes: code, then operands. -/
def decodeOperation : List Byte → Except DecodeError Instr
  | [] => .error .missingOperand
  | code :: rest => decodeCode code rest

/-- The decoder: total on whatever is presented, rejecting by name. -/
def decode (c : Config) : Request → Except DecodeError Instr
  | .operation bytes => decodeOperation bytes
  | .wireWord w => decodeWire c w

/-! ## The encoder -/

/-- One lane. -/
def putByte (b : Byte) : List Byte := [b]

/-- Two lanes, the high byte first. -/
def put16 (v : BitVec 16) : List Byte := [v.extractLsb' 8 8, v.extractLsb' 0 8]

/-- Four lanes, the high byte first. -/
def put32 (v : BitVec 32) : List Byte := put16 (v.extractLsb' 16 16) ++ put16 (v.extractLsb' 0 16)

/-- Eight lanes, the high byte first. -/
def put64 (v : BitVec 64) : List Byte := put32 (v.extractLsb' 32 32) ++ put32 (v.extractLsb' 0 32)

/-- A 64-bit lane holding an unsigned integer. -/
def putNat (n : Nat) : List Byte := put64 (BitVec.ofNat 64 n)

/-- A 64-bit lane holding a signed integer. -/
def putInt (z : Int) : List Byte := put64 (BitVec.ofInt 64 z)

/-- A lane holding one bit. -/
def putBit (b : Bool) : List Byte := if b then [1#8] else [0#8]

/-- A lane holding a device class. -/
def putClass : DeviceClass → List Byte
  | .fa => [0#8]
  | .hp => [1#8]
  | .hm => [2#8]

/-- A lane holding a record's `Type`; 255 stands for a value that is none of the three classes. -/
def putType : Option DeviceClass → List Byte
  | some k => putClass k
  | none => [255#8]

/-- The number of a command type at the port. -/
def cmdNumber (k : CmdType) : Nat := cmdTypes.idxOf k

/-- A lane holding a command type's number. -/
def putCmd (k : CmdType) : List Byte := [BitVec.ofNat 8 (cmdNumber k)]

/-- A list: a 16-bit count, then its entries. -/
def putCounted {α : Type} (put : α → List Byte) (xs : List α) : List Byte :=
  put16 (BitVec.ofNat 16 xs.length) ++ xs.flatMap put

/-- A device record, its nine fields in the order of 10_state R35. -/
def putMap (d : ILCMap) : List Byte :=
  putType d.type ++ (putByte d.subnet ++ (putByte d.address ++ (putInt d.actuatorId ++ (putNat d.dataIndex ++
    (putInt d.xDataIndex ++ (putInt d.yDataIndex ++ (putInt d.secondaryDataIndex ++ putBit d.disabled)))))))

/-- The operation code of 30_encoding R95; a wire word has none. -/
def opcode : Instr → Option Byte
  | .wData _ | .wEof | .wTimestamp | .wDelayUs _ | .wDelayMs _ | .wWaitrxUs _ | .wIrqtrig | .wSwtrig | .wWaitrxMs _
  | .wRxEof => none
  | .getIndex => some 0x00#8
  | .setIndex _ => some 0x01#8
  | .incIndex _ => some 0x02#8
  | .reset => some 0x03#8
  | .getLength => some 0x04#8
  | .setLength _ => some 0x05#8
  | .writeRaw _ => some 0x06#8
  | .readRaw => some 0x07#8
  | .poke _ _ => some 0x08#8
  | .writeU8 _ => some 0x10#8
  | .writeI8 _ => some 0x11#8
  | .writeI16 _ => some 0x12#8
  | .writeI24 _ => some 0x13#8
  | .writeI32 _ => some 0x14#8
  | .writeU16 _ => some 0x15#8
  | .writeU32 _ => some 0x16#8
  | .writeSgl _ => some 0x17#8
  | .writeDbl _ => some 0x18#8
  | .writeCrc _ => some 0x19#8
  | .writeEof => some 0x20#8
  | .writeTimestamp => some 0x21#8
  | .writeDelay _ => some 0x22#8
  | .writeWaitrx _ => some 0x23#8
  | .writeSwtrigger => some 0x24#8
  | .writeIrqtrigger => some 0x25#8
  | .readU8 => some 0x30#8
  | .readI8 => some 0x31#8
  | .readI16 => some 0x32#8
  | .readI24 => some 0x33#8
  | .readI32 => some 0x34#8
  | .readU16 => some 0x35#8
  | .readU32 => some 0x36#8
  | .readSgl => some 0x37#8
  | .readDbl => some 0x38#8
  | .readCrc => some 0x39#8
  | .endOfFrame => some 0x3A#8
  | .endOfBuffer => some 0x3B#8
  | .frameUnicast _ _ _ _ => some 0x40#8
  | .frameBroadcast _ _ _ _ => some 0x41#8
  | .frameNop _ => some 0x42#8
  | .frameCmd _ _ _ => some 0x43#8
  | .rrInc _ _ => some 0x50#8
  | .bcastInc _ => some 0x51#8
  | .lvdtStep _ => some 0x52#8
  | .openSubnet _ => some 0x53#8
  | .closeSubnet => some 0x54#8
  | .loadTopology _ => some 0x60#8
  | .setDisabled _ _ _ => some 0x61#8
  | .build _ _ _ _ _ => some 0x62#8
  | .update _ _ _ _ => some 0x63#8
  | .getExpected _ _ => some 0x64#8

/-- The operand lanes beside an operation's code. -/
def operandBytes : Instr → List Byte
  | .wData _ | .wEof | .wTimestamp | .wDelayUs _ | .wDelayMs _ | .wWaitrxUs _ | .wIrqtrig | .wSwtrig | .wWaitrxMs _
  | .wRxEof => []
  | .getIndex => []
  | .setIndex i => put16 i
  | .incIndex n => put16 n
  | .reset => []
  | .getLength => []
  | .setLength n => put16 n
  | .writeRaw w => put16 w
  | .readRaw => []
  | .poke i w => put16 i ++ put16 w
  | .writeU8 v => putByte v
  | .writeI8 v => putByte v
  | .writeI16 v => put16 v
  | .writeI24 v => put32 v
  | .writeI32 v => put32 v
  | .writeU16 v => put16 v
  | .writeU32 v => put32 v
  | .writeSgl v => put32 v
  | .writeDbl v => put64 v
  | .writeCrc n => put16 n
  | .writeEof => []
  | .writeTimestamp => []
  | .writeDelay T => put32 T
  | .writeWaitrx T => put32 T
  | .writeSwtrigger => []
  | .writeIrqtrigger => []
  | .readU8 => []
  | .readI8 => []
  | .readI16 => []
  | .readI24 => []
  | .readI32 => []
  | .readU16 => []
  | .readU32 => []
  | .readSgl => []
  | .readDbl => []
  | .readCrc => []
  | .endOfFrame => []
  | .endOfBuffer => []
  | .frameUnicast a f d T => putByte a ++ putByte f ++ putCounted putByte d ++ put32 T
  | .frameBroadcast a f d T => putByte a ++ putByte f ++ putCounted putByte d ++ put32 T
  | .frameNop n => put16 n
  | .frameCmd cmd a args => putCmd cmd ++ putByte a ++ putCounted putInt args
  | .rrInc index count => putNat index ++ putNat count
  | .bcastInc current => putByte current
  | .lvdtStep c => putByte c
  | .openSubnet s => putByte s
  | .closeSubnet => []
  | .loadTopology t => putCounted putMap t
  | .setDisabled cls i b => putClass cls ++ putNat i ++ putBit b
  | .build v primary secondary slew steps =>
      putByte v ++ putCounted putInt primary ++ putCounted putInt secondary ++ putBit slew ++ putCounted putInt steps
  | .update primary secondary slew steps =>
      putCounted putInt primary ++ putCounted putInt secondary ++ putBit slew ++ putCounted putInt steps
  | .getExpected cls i => putClass cls ++ putNat i

/-- The wire word an instruction of the serializer is encoded as (30_encoding R82, R84, R86). -/
def encodeWire (c : Config) : Instr → Option Word
  | .wData b => some (tag c b)
  | .wEof => some c.eofWord
  | .wTimestamp => some c.timestampWord
  | .wDelayUs v => some (controlWord delayUsOp v)
  | .wDelayMs v => some (controlWord delayMsOp v)
  | .wWaitrxUs v => some (controlWord waitrxUsOp v)
  | .wIrqtrig => some c.irqtrigWord
  | .wSwtrig => some c.swtrigWord
  | .wWaitrxMs v => some (controlWord waitrxMsOp v)
  | .wRxEof => some c.rxEofWord
  | .getIndex | .setIndex _ | .incIndex _ | .reset | .getLength | .setLength _ | .writeRaw _ | .readRaw
  | .poke _ _ | .writeU8 _ | .writeI8 _ | .writeI16 _ | .writeI24 _ | .writeI32 _ | .writeU16 _ | .writeU32 _
  | .writeSgl _ | .writeDbl _ | .writeCrc _ | .writeEof | .writeTimestamp | .writeDelay _ | .writeWaitrx _
  | .writeSwtrigger | .writeIrqtrigger | .readU8 | .readI8 | .readI16 | .readI24 | .readI32 | .readU16
  | .readU32 | .readSgl | .readDbl | .readCrc | .endOfFrame | .endOfBuffer | .frameUnicast _ _ _ _
  | .frameBroadcast _ _ _ _ | .frameNop _ | .frameCmd _ _ _ | .rrInc _ _ | .bcastInc _ | .lvdtStep _
  | .openSubnet _ | .closeSubnet | .loadTopology _ | .setDisabled _ _ _ | .build _ _ _ _ _ | .update _ _ _ _
  | .getExpected _ _ => none

/-- The encoder: what is presented at the port for an instruction. -/
def encode (c : Config) (i : Instr) : Request :=
  match encodeWire c i with
  | some w => .wireWord w
  | none => .operation ((opcode i).toList ++ operandBytes i)

/-! ## One row of the opcode table -/

/-- How many zero lanes stand beside a code taken from the opcode table: the longest operation with zero operands
(`RR_INC`) takes sixteen. -/
def tableLanes : Nat := 16

/-- What is presented for `nbits` bits `w` of a table row: a code with zero operands, or a wire word. -/
def tableRequest (nbits w : Nat) : Request :=
  if nbits ≤ 8 then .operation (BitVec.ofNat 8 w :: List.replicate tableLanes 0#8) else .wireWord (BitVec.ofNat 16 w)

/-- The instruction the decoder reads from a table row's bits, under the instance's literals. -/
def decodeTableWord (nbits w : Nat) : Option Instr := (decode Config.standard (tableRequest nbits w)).toOption

end Sys2Proof
end

