-- ==== Sys2Proof/Machine/State.lean ====
section
/-! DEFINITION. The machine's state as plain data, the ways a step can stop, and the state after reset. -/

namespace Sys2Proof.Machine

/-- The word buffer (10_state R22): the words written since reset, as pairs of index and word with indices strictly
rising. An index not listed has no value (log 8). -/
abbrev Memory := List (Nat × Word)

/-- The lifecycle phase (10_state R30). -/
inductive Phase where
  | unconfigured | configured | built
deriving DecidableEq, Repr

/-- The five subnets (00_scope R6 `N_SUBNET`). -/
abbrev Subnet := Fin 5

/-- The three ordered device lists of one subnet (10_state R36). Counts and the address lookup are computed from them. -/
structure Container where
  fa : List ILCMap
  hp : List ILCMap
  hm : List ILCMap
deriving DecidableEq, Repr

/-- `TOPOLOGY`: one container a subnet (10_state R36). -/
abbrev Topology := Vector Container 5

/-- A table with one bank a device class, each indexed by `DataIndex` (10_state R38). -/
structure Banks (α : Type) where
  fa : List α
  hp : List α
  hm : List α
deriving DecidableEq, Repr

/-- The scheduler registers of one subnet (10_state R26, R28, R39). -/
structure SubnetRegs where
  /-- `rr[s]`, the round-robin cursor -/
  rr : BitVec 8
  /-- `fdOffset[s]` -/
  fdOffset : Option Index
  /-- `stepOffset[s]` -/
  stepOffset : Option Index
  /-- `pollOffset[s]` -/
  pollOffset : Option Index
  /-- `lvdtOffset[s]` -/
  lvdtOffset : Option Index
  /-- `pollData[s]`: the `DataIndex` the poll frame addresses -/
  pollData : Option Nat
  /-- `hmSched[s]`: the monitors that have an LVDT slot -/
  hmSched : List ILCMap
deriving DecidableEq, Repr

/-- While a subnet block is open: `openSubnet` and `lenIndex` (10_state R32), which are set and cleared together
(log 17). -/
structure OpenBlock where
  subnet : Subnet
  lenIndex : Index
deriving DecidableEq, Repr

/-- Why the port turned an operation away (60_exceptions R302, treatment "refuse"): nothing but the port's answer
changes (R307). -/
inductive PortEvent where
  /-- `Refused`, code 7 -/
  | refused
  /-- `OperandRange`, code 5 -/
  | operandRange
deriving DecidableEq, Repr

/-- A result on the result port: the integer, or the bit, a rule calls `result`. -/
inductive Result where
  | unsigned (n : Nat)
  | signed (z : Int)
  | bit (b : Bool)
deriving DecidableEq, Repr

/-- What the port shows after an operation (10_state R20, log 6). -/
inductive PortOut where
  /-- no operation has been issued since reset -/
  | quiet
  /-- the operation completed and has no result -/
  | done
  /-- the operation completed with this result -/
  | result (r : Result)
  /-- the operation was turned away: no state change, no result -/
  | turnedAway (e : PortEvent)
deriving DecidableEq, Repr

/-- The events after which the block has no defined state (60_exceptions R302, R307): the step answers the event and no
state. Each is SAFE: no claim about a state can follow from it. -/
inductive Fault where
  /-- code 2, raised by `memRead`, `memWrite` and `writeCrc`: an access at or beyond `CAPACITY`, or a CRC window
  starting below 0 (20_memory R62). Safe. -/
  | bufferOverrun
  /-- code 3, raised by `memRead`: a word read that nothing has written since reset (20_memory R63). Safe. -/
  | uninitialisedRead
  /-- code 4, raised by `INC_INDEX` and `advance`: a cursor outside 0 .. 65535 (40_cursor_ops R112). Safe. -/
  | indexRange
  /-- code 6, raised by `RR_INC` and `UPDATE`: a count of zero (46_roundrobin R231). Safe. -/
  | zeroCount
deriving DecidableEq, Repr

/-- The model's own refusals. No arm and no meaning answers one (log 5). -/
inductive Refusal where
  /-- an instruction without a meaning in this model, by its mnemonic. Nothing raises it. Safe. -/
  | notModelled (mnemonic : String)
deriving DecidableEq, Repr

/-- Everything the spec gives the block, its instance parameters, and the operation port. -/
structure State where
  /-- the instance parameters and tables (00_scope R7, R8), which no operation writes -/
  cfg : Config
  /-- `words[]` (10_state R22) -/
  mem : Memory
  /-- `cursor` (10_state R23) -/
  cursor : Index
  /-- `length` (10_state R24) -/
  length : Index
  /-- `bcast`, the broadcast counter (10_state R25) -/
  bcast : BitVec 8
  /-- `lvdtClock`, the duty-cycle countdown (10_state R27) -/
  lvdtClock : BitVec 3
  /-- the per-subnet registers (10_state R26, R28, R39) -/
  sub : Vector SubnetRegs 5
  /-- `variant` (10_state R29) -/
  variant : Variant
  /-- `phase` (10_state R30) -/
  phase : Phase
  /-- `cfg_error` (10_state R31) -/
  cfgError : Bool
  /-- `openSubnet` and `lenIndex` (10_state R32) -/
  openBlock : Option OpenBlock
  /-- `exp_FA`, `exp_HP`, `exp_HM` (10_state R38) -/
  exp : Banks (BitVec 3)
  /-- `base_FA`, `base_HP`, `base_HM` (10_state R39) -/
  base : Banks (BitVec 3)
  /-- `TOPOLOGY` (10_state R36), none until one is loaded -/
  topology : Option Topology
  /-- `Disabled[d]` (10_state R34), by class and `DataIndex`; no bits until a topology is loaded -/
  disabled : Banks Bool
  /-- the result port (10_state R20) -/
  out : PortOut
  /-- what the host has presented at the operation port and the block has not yet taken (log 3) -/
  requests : List Request
  /-- the model's own counter that free values are read at (log 12) -/
  freeCount : Nat
deriving DecidableEq, Repr

/-- A table with `nFA`, `nHP`, `nHM` entries, all the same. -/
def Banks.fill {α : Type} (c : Config) (x : α) : Banks α :=
  { fa := List.replicate c.nFA x, hp := List.replicate c.nHP x, hm := List.replicate c.nHM x }

/-- One subnet's registers at reset and at the start of a `BUILD` (10_state R41, 47_buslist R261). -/
def SubnetRegs.initial : SubnetRegs :=
  { rr := 0, fdOffset := none, stepOffset := none, pollOffset := none, lvdtOffset := none, pollData := none,
    hmSched := [] }

/-- The state after reset of an instance configured with `c` (70_reset_and_hazards R330, 10_state R41). -/
def State.resetWith (c : Config) : State :=
  { cfg := c, mem := [], cursor := 0, length := 0, bcast := 0, lvdtClock := 0,
    sub := Vector.replicate 5 SubnetRegs.initial, variant := .parked, phase := .unconfigured, cfgError := false,
    openBlock := none, exp := Banks.fill c 0, base := Banks.fill c 0, topology := none,
    disabled := { fa := [], hp := [], hm := [] }, out := .quiet, requests := [], freeCount := 0 }

/-- The machine right after reset: the instance of log 1 and log 2 after R330's reset. -/
def State.reset : State := State.resetWith Config.standard

end Sys2Proof.Machine
end

