-- ==== Sys2Proof/Machine/Ops.lean ====
section
/-! DEFINITION. The named operations over memory and registers that every meaning is made of. ILCFG has no exception to
take and none to return from (60_exceptions R301, R308): what stands here in their place is `Stop`, the two ways an
operation does not complete (R302, R307). -/

namespace Sys2Proof

/-! ## Configuration look-ups -/

/-- The size of a class's bank: `N_FA`, `N_HP`, `N_HM` (00_scope R7). -/
def Config.bankSize (c : Config) : DeviceClass → Nat
  | .fa => c.nFA
  | .hp => c.nHP
  | .hm => c.nHM

/-- The profile of a variant (47_buslist R257). -/
def ProfileTable.profile (t : ProfileTable) : Variant → Profile
  | .parked => t.parked
  | .raised => t.raised
  | .active => t.active
  | .freezeSensor => t.freezeSensor

/-- `CMD_TABLE[cmd]`; `NOP` is no frame and has no entry (45_frame_factory R208). -/
def Config.entry (c : Config) (k : CmdType) : Option CmdEntry := if k = .nop then none else c.cmdTable.lookup k

/-- `TIMEOUT[cmd]` (10_state R37). -/
def Config.timeoutOf (c : Config) (k : CmdType) : Option (BitVec 32) := c.timeout.lookup k

end Sys2Proof

namespace Sys2Proof.Machine

/-! ## Not completing -/

/-- The two ways an operation does not complete: an event that leaves no defined state, or one that turns the operation
away (60_exceptions R302, R307). -/
inductive Stop where
  | fault (f : Fault)
  | refuse (e : PortEvent)
deriving DecidableEq, Repr

/-- A sequence of sub-operations under way (00_scope R11): the state so far, or the first event met (60_exceptions
R305). -/
abbrev Run := Except Stop State

/-- The outcome of one instruction. -/
abbrev Out := Host.Outcome State Fault Refusal

/-- Turning an operation away: every register and every word stays (60_exceptions R307); the port says why. -/
def turnAway (e : PortEvent) (s : State) : State := { s with out := .turnedAway e }

/-- The outcome of an operation without a result, issued in state `s`. -/
def finish (s : State) : Run → Out
  | .ok t => .next { t with out := .done }
  | .error (.fault f) => .fault f
  | .error (.refuse e) => .next (turnAway e s)

/-- The outcome of an operation with a result, issued in state `s`. -/
def answer (s : State) : Except Stop (Result × State) → Out
  | .ok (r, t) => .next { t with out := .result r }
  | .error (.fault f) => .fault f
  | .error (.refuse e) => .next (turnAway e s)

/-- An operation done once for each entry of a list, in order, each seeing the state the one before left (00_scope
R11). -/
def runAll {α : Type} (f : α → State → Run) : List α → State → Run
  | [], s => .ok s
  | x :: xs, s => do
    let s ← f x s
    runAll f xs s

/-! ## The word buffer -/

/-- The word at an index, if one has been written since reset (20_memory R63). -/
def Memory.read : Memory → Nat → Option Word
  | [], _ => none
  | (k, w) :: m, a => if k = a then some w else Memory.read m a

/-- Storing one word, keeping the indices strictly rising. -/
def Memory.write : Memory → Nat → Word → Memory
  | [], a, w => [(a, w)]
  | (k, v) :: m, a, w =>
    if a < k then (a, w) :: (k, v) :: m
    else if a = k then (a, w) :: m
    else (k, v) :: Memory.write m a w

/-- Storing consecutive words from an index on. -/
def Memory.writeAll : Memory → Nat → List Word → Memory
  | m, _, [] => m
  | m, a, w :: ws => Memory.writeAll (m.write a w) (a + 1) ws

/-- The `n` words from an index on, if every one of them has been written. -/
def Memory.readAll (m : Memory) : Nat → Nat → Option (List Word)
  | _, 0 => some []
  | a, n + 1 =>
    match m.read a, Memory.readAll m (a + 1) n with
    | some w, some ws => some (w :: ws)
    | _, _ => none

/-- The canonical form: indices strictly rising. No entry can equal what an unlisted index reads as, since that is no
word at all. -/
def Memory.wf : Memory → Bool
  | [] => true
  | [_] => true
  | (a, _) :: (b, w) :: m => decide (a < b) && Memory.wf ((b, w) :: m)

/-- `MemRead(addr, n)` (00_scope R10): bounds first, then whether the words were written (60_exceptions R305). -/
def memRead (addr n : Nat) (s : State) : Except Stop (List Word) :=
  if addr + n ≤ s.cfg.capacity then
    match s.mem.readAll addr n with
    | some ws => .ok ws
    | none => .error (.fault .uninitialisedRead)
  else .error (.fault .bufferOverrun)

/-- `MemWrite(addr, n, v)` (00_scope R10). -/
def memWrite (addr : Nat) (ws : List Word) (s : State) : Run :=
  if addr + ws.length ≤ s.cfg.capacity then .ok { s with mem := s.mem.writeAll addr ws }
  else .error (.fault .bufferOverrun)

/-- `cursor <- cursor + n` of a writer or a reader (10_state R23). Past an access inside a legal `CAPACITY` it always
succeeds, as 60_exceptions R302 code 4 says. -/
def advance (n : Nat) (s : State) : Run :=
  if s.cursor.toNat + n ≤ 65535 then .ok { s with cursor := BitVec.ofNat 16 (s.cursor.toNat + n) }
  else .error (.fault .indexRange)

/-- `cursor <- i`: `SET_INDEX` and every seek (40_cursor_ops R111). -/
def seek (i : Index) (s : State) : State := { s with cursor := i }

/-- Writing words at the cursor and advancing past them (40_cursor_ops R116, 41_data_writers R131). An access past `CAPACITY`
is a `BufferOverrun` wherever the cursor stands, 65535 included (R131; 60_exceptions R302 code 4, log 9). -/
def emit (ws : List Word) (s : State) : Run := do
  let s ← memWrite s.cursor.toNat ws s
  advance ws.length s

/-- Writing bytes at the cursor, each as a data word (41_data_writers R131). -/
def emitBytes (bs : List Byte) (s : State) : Run := emit (bs.map (tag s.cfg)) s

/-- Reading `n` words at the cursor and advancing past them (44_readers R181). An access past `CAPACITY` is a `BufferOverrun`
wherever the cursor stands, 65535 included (R181; 60_exceptions R302 code 4, log 9). -/
def fetch (n : Nat) (s : State) : Except Stop (List Word × State) := do
  let ws ← memRead s.cursor.toNat n s
  let s ← advance n s
  .ok (ws, s)

/-- Reading `n` bytes at the cursor, untagged (44_readers R181). -/
def fetchBytes (n : Nat) (s : State) : Except Stop (List Byte × State) := do
  let (ws, s) ← fetch n s
  .ok (ws.map untag, s)

/-- The buffer window `words[0 .. length-1]` the host may read between two operations (20_memory R72). -/
def State.window (s : State) : Except Stop (List Word) := memRead 0 s.length.toNat s

/-! ## CRC-16/Modbus -/

/-- One right shift of the CRC register (42_crc R150). -/
def crcShift (c : BitVec 16) : BitVec 16 := if c.getLsbD 0 then (c >>> 1) ^^^ crcPoly else c >>> 1

/-- `n` shifts. -/
def crcShifts : Nat → BitVec 16 → BitVec 16
  | 0, c => c
  | n + 1, c => crcShifts n (crcShift c)

/-- One byte into the CRC register (42_crc R150). -/
def crcByte (c : BitVec 16) (b : Byte) : BitVec 16 := crcShifts 8 (c ^^^ b.setWidth 16)

/-- Bytes into the CRC register, in order. -/
def crcFrom (c : BitVec 16) : List Byte → BitVec 16
  | [] => c
  | b :: bs => crcFrom (crcByte c b) bs

/-- `crc16(B)` (42_crc R150). -/
def crc16 (bs : List Byte) : BitVec 16 := crcFrom crcInit bs

/-- One bit into the bit-serial generator (42_crc R151). -/
def crcBit (c : BitVec 16) (d : Bool) : BitVec 16 := if c.getLsbD 0 ^^ d then (c >>> 1) ^^^ crcPoly else c >>> 1

/-- The bits of a byte list, bit 0 of each byte first (42_crc R151). -/
def bitsLsbFirst (bs : List Byte) : List Bool := bs.flatMap (fun b => (List.range 8).map b.getLsbD)

/-- The bit-serial form of the generator (42_crc R151). -/
def crcSerial (bs : List Byte) : BitVec 16 := (bitsLsbFirst bs).foldl crcBit crcInit

/-- The two bytes `WRITE_CRC` appends: low byte, then high byte (42_crc R152). -/
def crcPair (c : BitVec 16) : List Byte := [c.extractLsb' 0 8, c.extractLsb' 8 8]

/-- `WRITE_CRC n` (42_crc R152): both bounds first, then the window is read, then the two bytes are written
(60_exceptions R305, log 9). -/
def writeCrc (n : Nat) (s : State) : Run :=
  if n ≤ s.cursor.toNat ∧ s.cursor.toNat + 2 ≤ s.cfg.capacity then do
    let ws ← memRead (s.cursor.toNat - n) n s
    emitBytes (crcPair (crc16 (ws.map untag))) s
  else .error (.fault .bufferOverrun)

/-! ## Frames -/

/-- The common sequence of every frame (45_frame_factory R202): address, function code, payload, CRC over those
bytes, end of frame, tail. -/
def frame (a f : Byte) (d : List Byte) (tail : Word) (s : State) : Run := do
  let s ← emitBytes [a] s
  let s ← emitBytes [f] s
  let s ← emitBytes d s
  let s ← writeCrc (d.length + 2) s
  let s ← emit [s.cfg.eofWord] s
  emit [tail] s

/-- `FRAME_NOP n`: `n` copies of `NOP_WORD` (45_frame_factory R206). -/
def placeholder (n : Nat) (s : State) : Run := emit (List.replicate n s.cfg.nopWord) s

/-! ## Tables -/

/-- The bank of a class. -/
def Banks.bank {α : Type} (b : Banks α) : DeviceClass → List α
  | .fa => b.fa
  | .hp => b.hp
  | .hm => b.hm

/-- Writing one entry of a bank; an index the bank does not have writes nothing. -/
def Banks.put {α : Type} (b : Banks α) (k : DeviceClass) (i : Nat) (x : α) : Banks α :=
  match k with
  | .fa => { b with fa := b.fa.set i x }
  | .hp => { b with hp := b.hp.set i x }
  | .hm => { b with hm := b.hm.set i x }

/-- An entry of the base counts. -/
def State.baseOf (s : State) (k : DeviceClass) (i : Nat) : BitVec 3 := ((s.base.bank k)[i]?).getD 0

/-- An entry of the expected-response table (10_state R38). -/
def State.expOf (s : State) (k : DeviceClass) (i : Nat) : BitVec 3 := ((s.exp.bank k)[i]?).getD 0

/-- `exp_<class>[i] <- n`. -/
def State.setExp (s : State) (k : DeviceClass) (i : Nat) (n : BitVec 3) : State :=
  { s with exp := s.exp.put k i n }

/-- `base_<class>[i] <- n ; exp_<class>[i] <- n` (47_buslist R263 to R265). -/
def State.setBase (s : State) (k : DeviceClass) (i : Nat) (n : BitVec 3) : State :=
  { s with base := s.base.put k i n, exp := s.exp.put k i n }

/-- Changing registers of one subnet. -/
def State.modSub (s : State) (i : Subnet) (f : SubnetRegs → SubnetRegs) : State :=
  { s with sub := s.sub.set i (f s.sub[i]) }

/-- The five subnets in order. -/
def subnets : List Subnet := [0, 1, 2, 3, 4]

/-- The devices of one class on one subnet: `FA(s)`, `HP(s)`, `HM(s)` (10_state R36). -/
def Container.devices (k : Container) : DeviceClass → List ILCMap
  | .fa => k.fa
  | .hp => k.hp
  | .hm => k.hm

/-- The address lookup of a container (10_state R36). -/
def Container.lookup (k : Container) (address : Byte) : Option ILCMap :=
  (k.fa ++ k.hp ++ k.hm).find? (fun d => d.address == address)

/-! ## Counters -/

/-- `(index + 1) mod count` (46_roundrobin R230); the caller has checked `count > 0`. -/
def rrNext (index count : Nat) : Nat := (index + 1) % count

/-- `(current + 1) mod BCAST_MOD` (46_roundrobin R232). -/
def bcastNext (c : Config) (current : BitVec 8) : BitVec 8 := BitVec.ofNat 8 ((current.toNat + 1) % c.bcastMod)

/-- `(c = 0) ? 4 : c - 1` (46_roundrobin R234). -/
def lvdtNext (c : Nat) : Nat := if c = 0 then 4 else c - 1

end Sys2Proof.Machine
end

