-- ==== Sys2Proof/Machine/Operands.lean ====
section
/-! DEFINITION. Operand forms: typed values and their bytes, durations, payload fields and their arguments, the inputs of
`BUILD` and `UPDATE`. -/

namespace Sys2Proof.Machine

/-! ## Typed values -/

/-- `bytes_be` of the low `8 * n` bits of a pattern: `n` bytes, most significant first (00_scope R10, 20_memory R61). -/
def bytesBE {w : Nat} (p : BitVec w) : Nat → List Byte
  | 0 => []
  | n + 1 => p.extractLsb' (8 * n) 8 :: bytesBE p n

/-- The unsigned number whose bytes these are, most significant first (44_readers R181). -/
def fromBE (bs : List Byte) : Nat := bs.foldl (fun acc b => 256 * acc + b.toNat) 0

/-- `zext` of `n` bytes (44_readers R181). -/
def unsignedBE (bs : List Byte) : Result := .unsigned (fromBE bs)

/-- `sext` of the bytes (44_readers R181). -/
def signedBE (bs : List Byte) : Result := .signed (BitVec.ofNat (8 * bs.length) (fromBE bs)).toInt

/-- The byte size of a typed writer (41_data_writers R130, 45_frame_factory R209). -/
def typeBytes : FieldType → Nat
  | .u8 | .i8 => 1
  | .i16 | .u16 => 2
  | .i24 => 3
  | .i32 | .u32 | .sgl => 4
  | .dbl => 8

/-- `trunc_N` of an integer as the bytes its typed writer stores (00_scope R10, 41_data_writers R131, R354). -/
def typedBytes (t : FieldType) (z : Int) : List Byte := bytesBE (BitVec.ofInt 64 z) (typeBytes t)

/-- `cursor + n` as an integer, for a signed 16-bit `n` (40_cursor_ops R112). -/
def cursorPlus (s : State) (n : BitVec 16) : Int := (s.cursor.toNat : Int) + n.toInt

/-! ## Durations -/

/-- The delay word of a duration (43_control_words R162). -/
def delayWord (T : BitVec 32) : Word :=
  if T.toNat < usLimit then delayUsOp ||| BitVec.ofNat 16 T.toNat
  else delayMsOp ||| BitVec.ofNat 16 (T.toNat / 1000 + 1)

/-- The wait-for-rx word of a duration (43_control_words R163). -/
def waitWord (T : BitVec 32) : Word :=
  if T.toNat < usLimit then waitrxUsOp ||| BitVec.ofNat 16 T.toNat
  else waitrxMsOp ||| BitVec.ofNat 16 (T.toNat / 1000 + 1)

/-- The tail word of a frame (45_frame_factory R208). -/
def tailWord : Tail → BitVec 32 → Word
  | .unicast, T => waitWord T
  | .broadcast, T => delayWord T

/-- The range every duration must lie in (43_control_words R166). -/
def durationFits (T : BitVec 32) : Bool := decide (T.toNat ≤ maxDuration)

/-! ## Payload fields and their arguments -/

/-- `plen(cmd)`: the payload byte count of an entry (45_frame_factory R209). -/
def payloadLength (fs : List PayloadField) : Nat := (fs.map (fun f => f.count * typeBytes f.type)).sum

/-- The payload of `FRAME_CMD`: the fields take the next values in order, and every value must be taken (45_frame_factory
R208). -/
def bindArgs : List PayloadField → List Int → Option (List Byte)
  | [], [] => some []
  | [], _ :: _ => none
  | f :: fs, args =>
    if f.count ≤ args.length then
      (bindArgs fs (args.drop f.count)).map (fun rest => (args.take f.count).flatMap (typedBytes f.type) ++ rest)
    else none

/-- The arguments a scheduled frame is composed with, by field name (47_buslist R258, R264). An argument the frame is not
given is empty. -/
structure FieldArgs where
  counter : Option (BitVec 8)
  slew : Option Bool
  saaPrimary : List Int
  daaPrimary : List Int
  daaSecondary : List Int
  steps : List Int
deriving DecidableEq, Repr

/-- A frame composed without arguments. -/
def noArgs : FieldArgs :=
  { counter := none, slew := none, saaPrimary := [], daaPrimary := [], daaSecondary := [], steps := [] }

/-- `count` elements of an array from `first` on, if it has them. -/
def slice (xs : List Int) (first count : Nat) : Option (List Int) :=
  if first + count ≤ xs.length then some ((xs.drop first).take count) else none

/-- The values a named field takes from the arguments (45_frame_factory R210, log 14). The counter fills a field of one byte and
no other (46_roundrobin R233, decision D19). -/
def fieldValues (env : FieldArgs) (f : PayloadField) : Option (List Int) :=
  match f.name with
  | .counter => if f.count = 1 ∧ f.type.oneByte then env.counter.map (fun b => [(b.toNat : Int)]) else none
  | .slew whenSet whenClear =>
      if f.count = 1 then env.slew.map (fun b => [if b then whenSet else whenClear]) else none
  | .saaPrimary first => slice env.saaPrimary first f.count
  | .daaPrimary first => slice env.daaPrimary first f.count
  | .daaSecondary first => slice env.daaSecondary first f.count
  | .steps first => slice env.steps first f.count
  | .other _ => none

/-- The payload of a scheduled frame: every field bound by name (47_buslist R258) and written with the field's own type. An
argument that no field of the table names is not written: a table that omits one which 45_frame_factory R210 says the frame
carries is outside `Config.legal`, and what is composed under it is the model's choice (DESIGN CHOICE, log 14). -/
def bindNamed (env : FieldArgs) : List PayloadField → Option (List Byte)
  | [] => some []
  | f :: fs =>
    match fieldValues env f, bindNamed env fs with
    | some vs, some rest => some (vs.flatMap (typedBytes f.type) ++ rest)
    | _, _ => none

/-- What a table-driven frame is made of once `CMD_TABLE` and `TIMEOUT` have been consulted. -/
structure FrameParts where
  function : Byte
  payload : List Byte
  tail : Word
deriving DecidableEq, Repr

/-- Consulting the tables for a command (45_frame_factory R208): absent from `CMD_TABLE` or `TIMEOUT`, or arguments that
are not the entry's fields, is `Refused`; a time-out out of range is `OperandRange` (60_exceptions R302, R305). -/
def frameParts (c : Config) (k : CmdType) (bind : List PayloadField → Option (List Byte)) :
    Except Stop FrameParts :=
  match c.entry k, c.timeoutOf k with
  | some e, some T =>
    match bind e.payload with
    | some d =>
      if durationFits T then .ok { function := e.function, payload := d, tail := tailWord e.tail T }
      else .error (.refuse .operandRange)
    | none => .error (.refuse .refused)
  | _, _ => .error (.refuse .refused)

/-- The table-driven frame (45_frame_factory R208). -/
def frameCmd (k : CmdType) (a : Byte) (bind : List PayloadField → Option (List Byte)) (s : State) : Run := do
  let p ← frameParts s.cfg k bind
  frame a p.function p.payload p.tail s

/-! ## The inputs of `BUILD` and `UPDATE` -/

/-- The applied-forces and motion inputs (10_state R40). -/
structure Inputs where
  primary : List Int
  secondary : List Int
  slew : Bool
  steps : List Int
deriving DecidableEq, Repr

/-- The inputs have the shapes 10_state R40 gives them: `primary[0..N_FA-1]`, `steps[0..N_HP-1]` (log 13). -/
def inputsFit (c : Config) (inp : Inputs) : Bool :=
  decide (inp.primary.length = c.nFA) && decide (inp.steps.length = c.nHP)

/-- The setpoint at an index; outside the list, the free value (log 10). -/
def setpointAt (xs : List Int) (i : Int) (free : Int) : Int :=
  if 0 ≤ i then (xs[i.toNat]?).getD free else free

/-- The three arrays of the broadcast force demand (47_buslist R258). -/
structure ForceArrays where
  saaPrimary : List Int
  daaPrimary : List Int
  daaSecondary : List Int
deriving DecidableEq, Repr

/-- All slots 0: 16 single-axis and 32 dual-axis slots (00_scope R6). -/
def ForceArrays.zero : ForceArrays :=
  { saaPrimary := List.replicate 16 0, daaPrimary := List.replicate 32 0, daaSecondary := List.replicate 32 0 }

/-- One force actuator puts its setpoints into its slot (47_buslist R258). `n` is the free-value counter. -/
def gatherOne (n : Nat) (i : Subnet) (inp : Inputs) (arr : ForceArrays) (d : ILCMap) : ForceArrays :=
  let p := setpointAt inp.primary d.dataIndex (Config.absentSetpoint n i.val d.address.toNat false)
  if d.address.toNat ≤ 16 then { arr with saaPrimary := arr.saaPrimary.set (d.address.toNat - 1) p }
  else
    { arr with
      daaPrimary := arr.daaPrimary.set (d.address.toNat - 17) p,
      daaSecondary := arr.daaSecondary.set (d.address.toNat - 17)
        (setpointAt inp.secondary d.secondaryDataIndex (Config.absentSetpoint n i.val d.address.toNat true)) }

/-- `gather(s, primary, secondary)` over the force actuators of a subnet, Disabled or not (47_buslist R258). -/
def gather (n : Nat) (i : Subnet) (inp : Inputs) (fas : List ILCMap) : ForceArrays :=
  fas.foldl (gatherOne n i inp) ForceArrays.zero

/-- `forceArgs(s)` (47_buslist R258). -/
def forceArgs (n : Nat) (i : Subnet) (bcast : BitVec 8) (inp : Inputs) (fas : List ILCMap) : FieldArgs :=
  let arr := gather n i inp fas
  { counter := some bcast, slew := some inp.slew, saaPrimary := arr.saaPrimary, daaPrimary := arr.daaPrimary,
    daaSecondary := arr.daaSecondary, steps := [] }

/-- The arguments of the broadcast step-motor frame (47_buslist R264). -/
def stepArgs (bcast : BitVec 8) (inp : Inputs) : FieldArgs :=
  { noArgs with counter := some bcast, steps := inp.steps }

/-- The arguments of the freeze frame (47_buslist R264). -/
def freezeArgs (bcast : BitVec 8) : FieldArgs := { noArgs with counter := some bcast }

/-- The variant an operand names (10_state R29); a number above 3 names none (60_exceptions R302). -/
def variantOf (v : Byte) : Option Variant :=
  match v.toNat with
  | 0 => some .parked
  | 1 => some .raised
  | 2 => some .active
  | 3 => some .freezeSensor
  | _ => none

/-- The subnet an operand names; a number above 4 names none (60_exceptions R302). -/
def subnetOf (v : Byte) : Option Subnet := if h : v.toNat < 5 then some ⟨v.toNat, h⟩ else none

end Sys2Proof.Machine
end

