-- ==== Sys2Proof/Machine/Flags.lean ====
section
/-! DEFINITION. The block's flags. There are no arithmetic condition codes (10_state R33): the flags are the per-device
`Disabled` bits (R34), `cfg_error` (R31), and the two predicates that are returned and stored nowhere. -/

namespace Sys2Proof.Machine

/-- `Disabled[d]` of the device of a class with a `DataIndex` (10_state R34). -/
def State.isDisabled (s : State) (k : DeviceClass) (i : Nat) : Bool := ((s.disabled.bank k)[i]?).getD false

/-- The enabled devices of one class on a subnet, in topology order: `enFA(s)` and its like (10_state R36). -/
def State.enabled (s : State) (t : Topology) (k : DeviceClass) (i : Subnet) : List ILCMap :=
  (t[i].devices k).filter (fun d => !s.isDisabled k d.dataIndex)

/-- `END_OF_FRAME`'s comparison of all 16 bits (44_readers R192). -/
def isRxEof (c : Config) (ws : List Word) : Bool := decide (ws = [c.rxEofWord])

/-- `END_OF_BUFFER`'s condition (44_readers R193). -/
def State.atEndOfBuffer (s : State) : Bool := decide (s.length.toNat ≤ s.cursor.toNat)

/-- The `Disabled` bits a topology starts with: each device's own field (47_buslist R255). -/
def initialDisabled (c : Config) (t : List ILCMap) : Banks Bool :=
  t.foldl
    (fun b d =>
      match d.type with
      | some k => b.put k d.dataIndex d.disabled
      | none => b)
    (Banks.fill c false)

end Sys2Proof.Machine
end

