-- ==== Sys2Proof/Machine/RoundRobin.lean ====
section
/-! DEFINITION. The pure counter operations (46_roundrobin). They read and write no register. -/

namespace Sys2Proof.Machine

/-- The round-robin increment; a count of zero has no value (R230, R231). -/
def rrInc (index count : Nat) : Except Stop Nat :=
  if count = 0 then .error (.fault .zeroCount) else .ok (rrNext index count)

/-- `RR_INC index, count` (R230, R231). -/
def execRrInc (index count : Nat) (s : State) : Out :=
  answer s (do
    let r ← rrInc index count
    .ok (.unsigned r, s))

/-- `BCAST_INC current` (R232). -/
def execBcastInc (current : Byte) (s : State) : Out :=
  answer s (.ok (.unsigned (bcastNext s.cfg current).toNat, s))

/-- `LVDT_STEP c`, for `c` in 0 .. 4; another operand is outside its domain (R234, 93 U6). -/
def execLvdtStep (c : Byte) (s : State) : Out :=
  answer s
    (if c.toNat ≤ 4 then .ok (.unsigned (lvdtNext c.toNat), s) else .error (.refuse .refused))

end Sys2Proof.Machine
end

