-- ==== Sys2Proof/Machine/Subnet.lean ====
section
/-! DEFINITION. Opening and closing a subnet block (47_buslist R250, R251). -/

namespace Sys2Proof.Machine

/-- `OPEN_SUBNET(s)`: subnet code, a placeholder for the block length, the software trigger (R250). -/
def openSubnet (i : Subnet) (s : State) : Run :=
  match s.openBlock with
  | some _ => .error (.refuse .refused)
  | none => do
    let s ← emit [s.cfg.subnetCode[i]] s
    let at_ := s.cursor
    let s ← emit [0] s
    let s ← emit [s.cfg.swtrigWord] s
    .ok { s with openBlock := some { subnet := i, lenIndex := at_ } }

/-- `cursor - lenIndex - 1` as a word; a free value when it is negative (R251, log 11). -/
def blockLength (s : State) (lenIndex : Index) : Word :=
  if lenIndex.toNat + 1 ≤ s.cursor.toNat then BitVec.ofNat 16 (s.cursor.toNat - lenIndex.toNat - 1)
  else Config.unstatedLength s.freeCount

/-- `CLOSE_SUBNET`: the IRQ trigger, then the block length is poked (R251). The free-value counter moves past the value
this closing may have read (log 12). -/
def closeSubnet (s : State) : Run :=
  match s.openBlock with
  | none => .error (.refuse .refused)
  | some b => do
    let s ← emit [s.cfg.irqtrigWord] s
    let s ← memWrite b.lenIndex.toNat [blockLength s b.lenIndex] s
    .ok { s with openBlock := none, freeCount := s.freeCount + 1 }

/-- `OPEN_SUBNET s` (R250); a number above 4 names no subnet (60_exceptions R302). -/
def execOpenSubnet (v : Byte) (s : State) : Out :=
  finish s
    (match subnetOf v with
     | some i => openSubnet i s
     | none => .error (.refuse .refused))

/-- `CLOSE_SUBNET` (R251). -/
def execCloseSubnet (s : State) : Out := finish s (closeSubnet s)

end Sys2Proof.Machine
end

