-- ==== Sys2Proof/Machine/Topology.lean ====
section
/-! DEFINITION. The configuration operations and the expected-response table (47_buslist R255, R256, R281). -/

namespace Sys2Proof.Machine

/-- What one record must satisfy on its own (R255). -/
def recordValid (c : Config) (d : ILCMap) : Bool :=
  match d.type with
  | none => false
  | some k =>
    decide (d.subnet.toNat ≤ 4) && decide (1 ≤ d.address.toNat) && decide (d.address.toNat ≤ 247)
      && (decide (k ≠ .fa) || decide (d.address.toNat ≤ 48)) && decide (d.dataIndex < c.bankSize k)

/-- What two records must satisfy together: no shared address on a subnet, no shared `DataIndex` in a class (R255). -/
def recordsApart (d e : ILCMap) : Bool :=
  !(decide (d.subnet = e.subnet) && decide (d.address = e.address))
    && !(decide (d.type = e.type) && decide (d.dataIndex = e.dataIndex))

/-- Every record is apart from every later one. -/
def allApart : List ILCMap → Bool
  | [] => true
  | d :: ds => ds.all (recordsApart d) && allApart ds

/-- The records of one class on one subnet, in the order of the list (R255). -/
def devicesOf (t : List ILCMap) (i : Subnet) (k : DeviceClass) : List ILCMap :=
  t.filter (fun d => decide (d.subnet.toNat = i.val) && decide (d.type = some k))

/-- The containers built from a list of records (R255, 10_state R36). -/
def containersOf (t : List ILCMap) : Topology :=
  Vector.ofFn (fun i => { fa := devicesOf t i .fa, hp := devicesOf t i .hp, hm := devicesOf t i .hm })

/-- `valid(t)` (R255). -/
def topologyValid (c : Config) (t : List ILCMap) : Bool :=
  t.all (recordValid c) && allApart t
    && subnets.all (fun i =>
        [DeviceClass.fa, .hp, .hm].all (fun k => decide ((devicesOf t i k).length ≤ 255)))

/-- An accepted load (R255). -/
def acceptTopology (t : List ILCMap) (s : State) : State :=
  { s with topology := some (containersOf t), disabled := initialDisabled s.cfg t, cfgError := false,
           phase := .configured }

/-- A rejected load: no topology at all (R255, 60_exceptions R303). -/
def rejectTopology (s : State) : State :=
  { s with topology := none, disabled := { fa := [], hp := [], hm := [] }, cfgError := true,
           phase := .unconfigured }

/-- `LOAD_TOPOLOGY t` (R255). -/
def execLoadTopology (t : List ILCMap) (s : State) : Out :=
  answer s
    (if topologyValid s.cfg t then .ok (.bit true, acceptTopology t s) else .ok (.bit false, rejectTopology s))

/-- The topology has a device of this class with this `DataIndex`. -/
def hasDevice (t : Topology) (k : DeviceClass) (i : Nat) : Bool :=
  subnets.any (fun n => (t[n].devices k).any (fun d => decide (d.dataIndex = i)))

/-- `SET_DISABLED type, i, b`: that bit only (R256); without such a device, or unconfigured, refused (60_exceptions
R311). -/
def execSetDisabled (k : DeviceClass) (i : Nat) (b : Bool) (s : State) : Out :=
  finish s
    (match s.phase, s.topology with
     | .unconfigured, _ => .error (.refuse .refused)
     | _, none => .error (.refuse .refused)
     | _, some t =>
       if hasDevice t k i then .ok { s with disabled := s.disabled.put k i b } else .error (.refuse .refused))

/-- `GET_EXPECTED type, i` (R281); an index at or above the bank size, or unconfigured, refused (60_exceptions R311). -/
def execGetExpected (k : DeviceClass) (i : Nat) (s : State) : Out :=
  answer s
    (if s.phase ≠ .unconfigured ∧ i < s.cfg.bankSize k then .ok (.unsigned (s.expOf k i).toNat, s)
     else .error (.refuse .refused))

end Sys2Proof.Machine
end

