-- ==== Sys2Proof/Machine/BusList.lean ====
section
/-! DEFINITION. `BUILD` and `UPDATE` (47_buslist R260 to R282). -/

namespace Sys2Proof.Machine

/-! ## What is checked before the first word is written (60_exceptions R307, log 13) -/

/-- A frame an operation is going to compose: its command and its named arguments. -/
abbrev Call := CmdType × FieldArgs

/-- What stands against a frame: nothing, or the event its tables or arguments raise. -/
def callVerdict (c : Config) (k : Call) : Option PortEvent :=
  match frameParts c k.1 (bindNamed k.2) with
  | .error (.refuse e) => some e
  | _ => none

/-- What stands against all the frames together: `Refused` before `OperandRange` (60_exceptions R305). -/
def callsVerdict (c : Config) (ks : List Call) : Option PortEvent :=
  if PortEvent.refused ∈ ks.filterMap (callVerdict c) then some .refused else (ks.filterMap (callVerdict c)).head?

/-- The broadcast frame that opens a hardpoint section, if the profile has one (R264). -/
def hpCall (P : Profile) (bcast : BitVec 8) (inp : Inputs) : Option Call :=
  match P.hpBroadcast with
  | .none => none
  | .stepMotor => some (.broadcastStepMotor, stepArgs bcast inp)
  | .freeze => some (.broadcastFreezeSensor, freezeArgs bcast)

/-- The frames `BUILD` composes for one subnet (R262 to R266). -/
def buildCallsOn (T : Topology) (P : Profile) (inp : Inputs) (s : State) (i : Subnet) : List Call :=
  (if T[i].fa ≠ [] ∧ P.faForceDemand then [(.broadcastForceDemand, forceArgs s.freeCount i s.bcast inp T[i].fa)]
    else [])
  ++ (if s.enabled T .fa i ≠ [] ∧ P.faStatus then
        [(.pneumaticForceStatus, noArgs), (.reportServerStatus, noArgs)] else [])
  ++ (if T[i].hp ≠ [] then (hpCall P s.bcast inp).toList else [])
  ++ (if s.enabled T .hp i ≠ [] ∧ P.hpStatus then
        [(.electromechanicalForceAndStatus, noArgs), (.reportServerStatus, noArgs)] else [])
  ++ (if s.enabled T .hm i ≠ [] ∧ P.hmStatus then
        [(.readDcaPressure, noArgs), (.reportDcaStatus, noArgs), (.reportServerStatus, noArgs)] else [])
  ++ (if s.enabled T .hm i ≠ [] ∧ P.hmLVDT then [(.reportLvdt, noArgs)] else [])

/-- The frames `UPDATE` rewrites on one subnet (R270). A placeholder slot needs the table entry's length only. -/
def updateCallsOn (T : Topology) (P : Profile) (inp : Inputs) (s : State) (i : Subnet) : List Call :=
  (if s.sub[i].fdOffset.isSome then
      [(.broadcastForceDemand, forceArgs s.freeCount i s.bcast inp T[i].fa)] else [])
  ++ (if s.sub[i].pollOffset.isSome then [(.reportServerStatus, noArgs)] else [])
  ++ (if s.sub[i].stepOffset.isSome then (hpCall P s.bcast inp).toList else [])
  ++ (if s.sub[i].lvdtOffset.isSome ∧ s.sub[i].hmSched ≠ [] ∧ s.lvdtClock = 0 then [(.reportLvdt, noArgs)] else [])

/-- The placeholders `UPDATE` writes have a length: `REPORT_LVDT` is in `CMD_TABLE` (R266). -/
def slotsKnown (s : State) : Bool :=
  (s.cfg.entry .reportLvdt).isSome || subnets.all (fun i => s.sub[i].lvdtOffset.isNone || s.sub[i].hmSched.isEmpty)

/-! ## Pieces that `BUILD` and `UPDATE` share -/

/-- A scheduled frame: `FRAME_CMD` with arguments bound by field name (R258). -/
def scheduled (k : CmdType) (a : Byte) (env : FieldArgs) (s : State) : Run := frameCmd k a (bindNamed env) s

/-- The force-demand frame of a subnet (R263, R272). -/
def forceFrame (T : Topology) (inp : Inputs) (i : Subnet) (s : State) : Run :=
  scheduled .broadcastForceDemand addrBcastFA (forceArgs s.freeCount i s.bcast inp T[i].fa) s

/-- The step-motor or freeze frame of a subnet, if the profile has one (R264, R276). -/
def hpFrame (P : Profile) (inp : Inputs) (s : State) : Run :=
  match hpCall P s.bcast inp with
  | some k => scheduled k.1 addrBcastHP k.2 s
  | none => .ok s

/-- The round-robin frame: its target is recorded and expected one more time than its base count (R263, R274). -/
def pollFrame (i : Subnet) (t : ILCMap) (s : State) : Run := do
  let s ← scheduled .reportServerStatus t.address noArgs s
  let s := s.modSub i (fun r => { r with pollData := some t.dataIndex })
  .ok (s.setExp .fa t.dataIndex (s.baseOf .fa t.dataIndex + 1))

/-- `LVDT_SLOT(d)`: real when the countdown is 0, else a placeholder of the same length (R266). -/
def lvdtSlot (d : ILCMap) (s : State) : Run :=
  if s.lvdtClock = 0 then do
    let s ← scheduled .reportLvdt d.address noArgs s
    .ok (s.setExp .hm d.dataIndex (s.baseOf .hm d.dataIndex + 1))
  else
    match s.cfg.entry .reportLvdt with
    | some e => do
      let s ← placeholder (payloadLength e.payload + 6) s
      .ok (s.setExp .hm d.dataIndex (s.baseOf .hm d.dataIndex))
    | none => .error (.refuse .refused)

/-! ## BUILD -/

/-- Initialisation (R261). `bcast` is not written. -/
def buildInit (v : Variant) (s : State) : State :=
  { s with variant := v, cursor := 0, sub := Vector.replicate 5 SubnetRegs.initial, lvdtClock := 0,
           exp := Banks.fill s.cfg 0, base := Banks.fill s.cfg 0 }

/-- The status frame of one enabled force actuator (R263). -/
def faStatusFrame (d : ILCMap) (s : State) : Run := do
  let s ← scheduled .pneumaticForceStatus d.address noArgs s
  .ok (s.setBase .fa d.dataIndex 1)

/-- The two frames of one enabled hardpoint actuator (R264). -/
def hpStatusFrames (d : ILCMap) (s : State) : Run := do
  let s ← scheduled .electromechanicalForceAndStatus d.address noArgs s
  let s ← scheduled .reportServerStatus d.address noArgs s
  .ok (s.setBase .hp d.dataIndex 2)

/-- The three frames of one enabled hardpoint monitor (R265). -/
def hmStatusFrames (d : ILCMap) (s : State) : Run := do
  let s ← scheduled .readDcaPressure d.address noArgs s
  let s ← scheduled .reportDcaStatus d.address noArgs s
  let s ← scheduled .reportServerStatus d.address noArgs s
  .ok (s.setBase .hm d.dataIndex 3)

/-- The broadcast force demand and the timestamp of the FA section (R263). -/
def buildForce (T : Topology) (inp : Inputs) (i : Subnet) (s : State) : Run := do
  let s := s.modSub i (fun r => { r with fdOffset := some s.cursor })
  let s ← forceFrame T inp i s
  emit [s.cfg.timestampWord] s

/-- The status frames and the round-robin frame of the FA section (R263). -/
def buildStatus (T : Topology) (i : Subnet) (s : State) : Run := do
  let s ← runAll faStatusFrame (s.enabled T .fa i) s
  match (s.enabled T .fa i)[s.sub[i].rr.toNat]? with
  | some t => pollFrame i t (s.modSub i (fun r => { r with pollOffset := some s.cursor }))
  | none => .ok s

/-- FA section (R263). -/
def faSection (T : Topology) (P : Profile) (inp : Inputs) (i : Subnet) (s : State) : Run := do
  let s ← if P.faForceDemand then buildForce T inp i s else .ok s
  if P.faStatus then buildStatus T i s else .ok s

/-- HP section (R264). -/
def hpSection (T : Topology) (P : Profile) (inp : Inputs) (i : Subnet) (s : State) : Run := do
  let s ←
    if P.hpBroadcast = .none then .ok s
    else hpFrame P inp (s.modSub i (fun r => { r with stepOffset := some s.cursor }))
  if P.hpStatus then runAll hpStatusFrames (s.enabled T .hp i) s else .ok s

/-- HM section (R265). -/
def hmSection (T : Topology) (P : Profile) (i : Subnet) (s : State) : Run :=
  if P.hmStatus then runAll hmStatusFrames (s.enabled T .hm i) s else .ok s

/-- LVDT block (R266). -/
def lvdtSection (T : Topology) (P : Profile) (i : Subnet) (s : State) : Run :=
  if P.hmLVDT ∧ s.enabled T .hm i ≠ [] then
    runAll lvdtSlot (s.enabled T .hm i)
      (s.modSub i (fun r => { r with lvdtOffset := some s.cursor, hmSched := s.enabled T .hm i }))
  else .ok s

/-- One subnet block (R262). -/
def buildSubnet (T : Topology) (P : Profile) (inp : Inputs) (i : Subnet) (s : State) : Run := do
  let s ← openSubnet i s
  let s ← if T[i].fa ≠ [] then faSection T P inp i s else .ok s
  let s ← if T[i].hp ≠ [] then hpSection T P inp i s else .ok s
  let s ← if T[i].hm ≠ [] then hmSection T P i s else .ok s
  let s ← if T[i].hm ≠ [] then lvdtSection T P i s else .ok s
  closeSubnet s

/-- Finalisation (R267): the length is frozen. -/
def buildFinish (s : State) : State := { s with length := s.cursor, phase := .built }

/-- `BUILD` once its preconditions hold: initialise, five blocks in order, freeze (R260). -/
def buildRun (T : Topology) (v : Variant) (inp : Inputs) (s : State) : Run := do
  let s ← runAll (buildSubnet T (s.cfg.profiles.profile v) inp) subnets (buildInit v s)
  .ok (buildFinish s)

/-- `BUILD` (R260): phase, variant, input shapes, an open subnet block and the tables are checked first. -/
def buildSchedule (v : Byte) (inp : Inputs) (s : State) : Run :=
  match s.phase, s.topology, variantOf v with
  | .unconfigured, _, _ => .error (.refuse .refused)
  | _, some T, some x =>
    if inputsFit s.cfg inp ∧ s.openBlock = none then
      match callsVerdict s.cfg (subnets.flatMap (buildCallsOn T (s.cfg.profiles.profile x) inp s)) with
      | some e => .error (.refuse e)
      | none => buildRun T x inp s
    else .error (.refuse .refused)
  | _, _, _ => .error (.refuse .refused)

/-- `BUILD v, primary, secondary, slew, steps` (R260). -/
def execBuild (v : Byte) (primary secondary : List Int) (slew : Bool) (steps : List Int) (s : State) : Out :=
  finish s (buildSchedule v { primary, secondary, slew, steps } s)

/-! ## UPDATE -/

/-- Force-demand rewrite (R272). -/
def updateForce (T : Topology) (inp : Inputs) (i : Subnet) (s : State) : Run :=
  match s.sub[i].fdOffset with
  | some off => forceFrame T inp i (seek off s)
  | none => .ok s

/-- The previous round-robin target goes back to its base count (R274). -/
def restorePolled (i : Subnet) (s : State) : State :=
  match s.sub[i].pollData with
  | some p => s.setExp .fa p (s.baseOf .fa p)
  | none => s

/-- Round-robin rewrite (R274); a count of zero is `ZeroCount` (R275). -/
def updatePoll (T : Topology) (i : Subnet) (s : State) : Run :=
  match s.sub[i].pollOffset with
  | none => .ok s
  | some off => do
    let next ← rrInc s.sub[i].rr.toNat (s.enabled T .fa i).length
    let s := s.modSub i (fun r => { r with rr := BitVec.ofNat 8 next })
    match (s.enabled T .fa i)[s.sub[i].rr.toNat]? with
    | some t => pollFrame i t (restorePolled i (seek off s))
    | none => .error (.fault .zeroCount)

/-- Step or freeze rewrite (R276). -/
def updateStep (P : Profile) (inp : Inputs) (i : Subnet) (s : State) : Run :=
  match s.sub[i].stepOffset with
  | some off => hpFrame P inp (seek off s)
  | none => .ok s

/-- LVDT block rewrite (R277). -/
def updateLvdt (i : Subnet) (s : State) : Run :=
  match s.sub[i].lvdtOffset with
  | some off => runAll lvdtSlot s.sub[i].hmSched (seek off s)
  | none => .ok s

/-- The four rewrites of one subnet, in the document's order (R270). -/
def updateSubnet (T : Topology) (P : Profile) (inp : Inputs) (i : Subnet) (s : State) : Run := do
  let s ← updateForce T inp i s
  let s ← updatePoll T i s
  let s ← updateStep P inp i s
  updateLvdt i s

/-- The broadcast counter moves first (R271). -/
def updateInit (s : State) : State := { s with bcast := bcastNext s.cfg s.bcast }

/-- The countdown moves once, last (R277). The free-value counter moves past the values this cycle may have read
(log 12). -/
def updateFinish (s : State) : State :=
  { s with lvdtClock := BitVec.ofNat 3 (lvdtNext s.lvdtClock.toNat), freeCount := s.freeCount + 1 }

/-- `UPDATE` once its preconditions hold (R270). -/
def updateRun (T : Topology) (inp : Inputs) (s : State) : Run := do
  let s ← runAll (updateSubnet T (s.cfg.profiles.profile s.variant) inp) subnets (updateInit s)
  .ok (updateFinish s)

/-- `UPDATE` (R270): phase, input shapes and the tables are checked first. -/
def updateSchedule (inp : Inputs) (s : State) : Run :=
  match s.phase, s.topology with
  | .built, some T =>
    if inputsFit s.cfg inp ∧ slotsKnown s then
      match callsVerdict s.cfg (subnets.flatMap (updateCallsOn T (s.cfg.profiles.profile s.variant) inp s)) with
      | some e => .error (.refuse e)
      | none => updateRun T inp s
    else .error (.refuse .refused)
  | _, _ => .error (.refuse .refused)

/-- `UPDATE primary, secondary, slew, steps` (R270). -/
def execUpdate (primary secondary : List Int) (slew : Bool) (steps : List Int) (s : State) : Out :=
  finish s (updateSchedule { primary, secondary, slew, steps } s)

end Sys2Proof.Machine
end

