-- ==== Sys2Proof/Machine/Control.lean ====
section
/-! DEFINITION. Control-word writers (43_control_words): one untagged word at the cursor. -/

namespace Sys2Proof.Machine

/-- `WRITE_EOF` (R160). -/
def execWriteEof (s : State) : Out := finish s (emit [s.cfg.eofWord] s)

/-- `WRITE_TIMESTAMP` (R161). -/
def execWriteTimestamp (s : State) : Out := finish s (emit [s.cfg.timestampWord] s)

/-- A word made from a duration, turned away when the duration is out of range (R166). -/
def emitDuration (word : BitVec 32 → Word) (T : BitVec 32) (s : State) : Run :=
  if durationFits T then emit [word T] s else .error (.refuse .operandRange)

/-- `WRITE_DELAY T` (R162, R166). -/
def execWriteDelay (T : BitVec 32) (s : State) : Out := finish s (emitDuration delayWord T s)

/-- `WRITE_WAITRX T` (R163, R166). -/
def execWriteWaitrx (T : BitVec 32) (s : State) : Out := finish s (emitDuration waitWord T s)

/-- `WRITE_SWTRIGGER` (R164). -/
def execWriteSwtrigger (s : State) : Out := finish s (emit [s.cfg.swtrigWord] s)

/-- `WRITE_IRQTRIGGER` (R165). -/
def execWriteIrqtrigger (s : State) : Out := finish s (emit [s.cfg.irqtrigWord] s)

end Sys2Proof.Machine
end

