-- ==== Sys2Proof/Machine/Crc.lean ====
section
/-! DEFINITION. The CRC operations (42_crc). The generator itself is in Machine/Ops.lean. -/

namespace Sys2Proof.Machine

/-- `WRITE_CRC n` (R152). -/
def execWriteCrc (n : BitVec 16) (s : State) : Out := finish s (writeCrc n.toNat s)

/-- `READ_CRC`: the pair as `WRITE_CRC` wrote it, the second word the high byte; nothing is compared (R153). -/
def execReadCrc (s : State) : Out :=
  answer s (do
    let (bs, t) ← fetchBytes 2 s
    .ok (unsignedBE bs.reverse, t))

end Sys2Proof.Machine
end

