-- ==== Sys2Proof/Machine/Cursor.lean ====
section
/-! DEFINITION. Cursor, length and raw-word operations (40_cursor_ops). -/

namespace Sys2Proof.Machine

/-- `GET_INDEX`: `result <- cursor` (R110). -/
def execGetIndex (s : State) : Out := answer s (.ok (.unsigned s.cursor.toNat, s))

/-- `SET_INDEX i`: `cursor <- i`, not compared with anything (R111). -/
def execSetIndex (i : Index) (s : State) : Out := finish s (.ok (seek i s))

/-- `INC_INDEX n`: `cursor <- cursor + n`, defined inside 0 .. 65535 (R112). -/
def execIncIndex (n : BitVec 16) (s : State) : Out :=
  finish s
    (if 0 ≤ cursorPlus s n ∧ cursorPlus s n ≤ 65535 then .ok (seek (BitVec.ofInt 16 (cursorPlus s n)) s)
     else .error (.fault .indexRange))

/-- `RESET`: `cursor <- 0` and nothing else (R113). -/
def execReset (s : State) : Out := finish s (.ok (seek 0 s))

/-- `GET_LENGTH`: `result <- length` (R114). -/
def execGetLength (s : State) : Out := answer s (.ok (.unsigned s.length.toNat, s))

/-- `SET_LENGTH n`: `length <- n` (R115). -/
def execSetLength (n : Index) (s : State) : Out := finish s (.ok { s with length := n })

/-- `WRITE_RAW w`: the word as given (R116). -/
def execWriteRaw (w : Word) (s : State) : Out := finish s (emit [w] s)

/-- `READ_RAW`: the word as stored (R117). -/
def execReadRaw (s : State) : Out :=
  answer s (do
    let (ws, t) ← fetch 1 s
    .ok (.unsigned (ws.headD 0).toNat, t))

/-- `POKE i, w`: one word at an explicit index, the cursor stays (R118). -/
def execPoke (i : Index) (w : Word) (s : State) : Out := finish s (memWrite i.toNat [w] s)

end Sys2Proof.Machine
end

