-- ==== Sys2Proof/Machine/Frames.lean ====
section
/-! DEFINITION. Frame composition (45_frame_factory). -/

namespace Sys2Proof.Machine

/-- A generic frame with a given tail: the payload must leave `p + 2` in 16 bits and the duration must be in range,
both decided before the first word is written (R203, 60_exceptions R305, R307). -/
def genericFrame (tail : Tail) (a f : Byte) (d : List Byte) (T : BitVec 32) (s : State) : Run :=
  if 65535 < d.length + 2 then .error (.refuse .refused)
  else if durationFits T then frame a f d (tailWord tail T) s
  else .error (.refuse .operandRange)

/-- `FRAME_UNICAST a, f, d, T` (R203). -/
def execFrameUnicast (a f : Byte) (d : List Byte) (T : BitVec 32) (s : State) : Out :=
  finish s (genericFrame .unicast a f d T s)

/-- `FRAME_BROADCAST a, f, d, T` (R204). -/
def execFrameBroadcast (a f : Byte) (d : List Byte) (T : BitVec 32) (s : State) : Out :=
  finish s (genericFrame .broadcast a f d T s)

/-- `FRAME_NOP n` (R206). -/
def execFrameNop (n : BitVec 16) (s : State) : Out := finish s (placeholder n.toNat s)

/-- `FRAME_CMD cmd, a, args` (R208). -/
def execFrameCmd (cmd : CmdType) (a : Byte) (args : List Int) (s : State) : Out :=
  finish s (frameCmd cmd a (fun fs => bindArgs fs args) s)

end Sys2Proof.Machine
end

