-- ==== Sys2Proof/Machine/Readers.lean ====
section
/-! DEFINITION. Typed readers and the two predicates (44_readers). No reader looks at tag bits, `length` or the class of a
word (R181, R191). -/

namespace Sys2Proof.Machine

/-- The common semantics of a reader of `n` bytes (R181). -/
def readTyped (n : Nat) (value : List Byte → Result) (s : State) : Out :=
  answer s (do
    let (bs, t) ← fetchBytes n s
    .ok (value bs, t))

/-- `READ_U8` (R182). -/
def execReadU8 (s : State) : Out := readTyped 1 unsignedBE s

/-- `READ_I8` (R183). -/
def execReadI8 (s : State) : Out := readTyped 1 signedBE s

/-- `READ_I16` (R184). -/
def execReadI16 (s : State) : Out := readTyped 2 signedBE s

/-- `READ_I24`, sign-extended from 24 bits (R185). -/
def execReadI24 (s : State) : Out := readTyped 3 signedBE s

/-- `READ_I32` (R186). -/
def execReadI32 (s : State) : Out := readTyped 4 signedBE s

/-- `READ_U16` (R187). -/
def execReadU16 (s : State) : Out := readTyped 2 unsignedBE s

/-- `READ_U32` (R188). -/
def execReadU32 (s : State) : Out := readTyped 4 unsignedBE s

/-- `READ_SGL`: the pattern, unchanged (R189). -/
def execReadSgl (s : State) : Out := readTyped 4 unsignedBE s

/-- `READ_DBL`: the pattern, unchanged (R190). -/
def execReadDbl (s : State) : Out := readTyped 8 unsignedBE s

/-- `END_OF_FRAME`: whether the word at the cursor is `RX_EOF_WORD`; the cursor stays (R192). -/
def execEndOfFrame (s : State) : Out :=
  answer s (do
    let ws ← memRead s.cursor.toNat 1 s
    .ok (.bit (isRxEof s.cfg ws), s))

/-- `END_OF_BUFFER`: whether `cursor >= length`; no word is read (R193). -/
def execEndOfBuffer (s : State) : Out := answer s (.ok (.bit s.atEndOfBuffer, s))

end Sys2Proof.Machine
end

