-- ==== Sys2Proof/Machine/Wire.lean ====
section
/-! DEFINITION. The wire words, as far as ILCFG is concerned. They are the instructions of the FPGA-side serializer, which
executes its own copy of them: "ILCFG is a producer and does not execute wire words, so "illegal word" raises nothing
inside it" (30_encoding R92). The serializer is out of scope (00_scope R5) and sees only copies (20_memory R72, R73;
60_exceptions R314), so a wire word it executes changes nothing inside ILCFG: each meaning here leaves the whole
state as it is (log 7). What a word says is in `encodeWire`, `decodeWire` and `wireDuration`. -/

namespace Sys2Proof.Machine

/-- The serializer executes a word of its copy: nothing inside ILCFG changes (20_memory R73, 30_encoding R92). -/
def serializerOnly (s : State) : Out := .next s

/-- A data word (30_encoding R82): the serializer transmits its byte. -/
def execWData (_b : Byte) (s : State) : Out := serializerOnly s

/-- End of frame (43_control_words R160). -/
def execWEof (s : State) : Out := serializerOnly s

/-- Timestamp capture (43_control_words R161): ILCFG never sees the value (60_exceptions R313). -/
def execWTimestamp (s : State) : Out := serializerOnly s

/-- Delay in microseconds (43_control_words R162): ILCFG itself measures no time (46_roundrobin). -/
def execWDelayUs (_v : BitVec 12) (s : State) : Out := serializerOnly s

/-- Delay in milliseconds (43_control_words R162). -/
def execWDelayMs (_v : BitVec 12) (s : State) : Out := serializerOnly s

/-- Wait for a response, microseconds (43_control_words R163): ILCFG waits for nothing (60_exceptions R309). -/
def execWWaitrxUs (_v : BitVec 12) (s : State) : Out := serializerOnly s

/-- Wait for a response, milliseconds (43_control_words R163). -/
def execWWaitrxMs (_v : BitVec 12) (s : State) : Out := serializerOnly s

/-- IRQ trigger (43_control_words R165): the serializer signals its own host, the signal never enters ILCFG
(60_exceptions R304). -/
def execWIrqtrig (s : State) : Out := serializerOnly s

/-- Software trigger (43_control_words R164): an instruction to the serializer, not an event of this block (60_exceptions
R304). -/
def execWSwtrig (s : State) : Out := serializerOnly s

/-- End of frame in a response stream (44_readers R192): how response words reach the buffer is outside the block. -/
def execWRxEof (s : State) : Out := serializerOnly s

/-- The duration in microseconds a delay or wait-for-rx word denotes (30_encoding R88). -/
def wireDuration (c : Config) (w : Word) : Option Nat :=
  match classify c w with
  | some .delayUs | some .waitrxUs => some (w.setWidth 12).toNat
  | some .delayMs | some .waitrxMs => some ((w.setWidth 12).toNat * 1000)
  | _ => none

end Sys2Proof.Machine
end

