-- ==== Sys2Proof/Machine/Writers.lean ====
section
/-! DEFINITION. Typed data writers (41_data_writers): the bytes of the operand, most significant first, as data words. -/

namespace Sys2Proof.Machine

/-- The common semantics of a writer of `n` bytes (R131). -/
def writeTyped {w : Nat} (n : Nat) (v : BitVec w) (s : State) : Out := finish s (emitBytes (bytesBE v n) s)

/-- `WRITE_U8 v` (R132). -/
def execWriteU8 (v : BitVec 8) (s : State) : Out := writeTyped 1 v s

/-- `WRITE_I8 v` (R133). -/
def execWriteI8 (v : BitVec 8) (s : State) : Out := writeTyped 1 v s

/-- `WRITE_I16 v` (R134). -/
def execWriteI16 (v : BitVec 16) (s : State) : Out := writeTyped 2 v s

/-- `WRITE_I24 v`: the low 24 bits of a 32-bit operand, silently (R135). -/
def execWriteI24 (v : BitVec 32) (s : State) : Out := writeTyped 3 v s

/-- `WRITE_I32 v` (R136). -/
def execWriteI32 (v : BitVec 32) (s : State) : Out := writeTyped 4 v s

/-- `WRITE_U16 v` (R137). -/
def execWriteU16 (v : BitVec 16) (s : State) : Out := writeTyped 2 v s

/-- `WRITE_U32 v` (R138). -/
def execWriteU32 (v : BitVec 32) (s : State) : Out := writeTyped 4 v s

/-- `WRITE_SGL v`: the pattern, unchanged (R139). -/
def execWriteSgl (v : BitVec 32) (s : State) : Out := writeTyped 4 v s

/-- `WRITE_DBL v`: the pattern, unchanged (R140). -/
def execWriteDbl (v : BitVec 64) (s : State) : Out := writeTyped 8 v s

end Sys2Proof.Machine
end

