-- ==== Sys2Proof/Machine/Dispatch.lean ====
section
/-! DEFINITION. One arm per instruction, each one call of its meaning. -/

namespace Sys2Proof.Machine

def exec (i : Instr) (s : State) : Host.Outcome State Fault Refusal :=
  match i with
  | .wData b => Sys2Proof.Machine.execWData b s
  | .wEof => Sys2Proof.Machine.execWEof s
  | .wTimestamp => Sys2Proof.Machine.execWTimestamp s
  | .wDelayUs v => Sys2Proof.Machine.execWDelayUs v s
  | .wDelayMs v => Sys2Proof.Machine.execWDelayMs v s
  | .wWaitrxUs v => Sys2Proof.Machine.execWWaitrxUs v s
  | .wIrqtrig => Sys2Proof.Machine.execWIrqtrig s
  | .wSwtrig => Sys2Proof.Machine.execWSwtrig s
  | .wWaitrxMs v => Sys2Proof.Machine.execWWaitrxMs v s
  | .wRxEof => Sys2Proof.Machine.execWRxEof s
  | .getIndex => Sys2Proof.Machine.execGetIndex s
  | .setIndex k => Sys2Proof.Machine.execSetIndex k s
  | .incIndex n => Sys2Proof.Machine.execIncIndex n s
  | .reset => Sys2Proof.Machine.execReset s
  | .getLength => Sys2Proof.Machine.execGetLength s
  | .setLength n => Sys2Proof.Machine.execSetLength n s
  | .writeRaw w => Sys2Proof.Machine.execWriteRaw w s
  | .readRaw => Sys2Proof.Machine.execReadRaw s
  | .poke k w => Sys2Proof.Machine.execPoke k w s
  | .writeU8 v => Sys2Proof.Machine.execWriteU8 v s
  | .writeI8 v => Sys2Proof.Machine.execWriteI8 v s
  | .writeI16 v => Sys2Proof.Machine.execWriteI16 v s
  | .writeI24 v => Sys2Proof.Machine.execWriteI24 v s
  | .writeI32 v => Sys2Proof.Machine.execWriteI32 v s
  | .writeU16 v => Sys2Proof.Machine.execWriteU16 v s
  | .writeU32 v => Sys2Proof.Machine.execWriteU32 v s
  | .writeSgl v => Sys2Proof.Machine.execWriteSgl v s
  | .writeDbl v => Sys2Proof.Machine.execWriteDbl v s
  | .writeCrc n => Sys2Proof.Machine.execWriteCrc n s
  | .writeEof => Sys2Proof.Machine.execWriteEof s
  | .writeTimestamp => Sys2Proof.Machine.execWriteTimestamp s
  | .writeDelay T => Sys2Proof.Machine.execWriteDelay T s
  | .writeWaitrx T => Sys2Proof.Machine.execWriteWaitrx T s
  | .writeSwtrigger => Sys2Proof.Machine.execWriteSwtrigger s
  | .writeIrqtrigger => Sys2Proof.Machine.execWriteIrqtrigger s
  | .readU8 => Sys2Proof.Machine.execReadU8 s
  | .readI8 => Sys2Proof.Machine.execReadI8 s
  | .readI16 => Sys2Proof.Machine.execReadI16 s
  | .readI24 => Sys2Proof.Machine.execReadI24 s
  | .readI32 => Sys2Proof.Machine.execReadI32 s
  | .readU16 => Sys2Proof.Machine.execReadU16 s
  | .readU32 => Sys2Proof.Machine.execReadU32 s
  | .readSgl => Sys2Proof.Machine.execReadSgl s
  | .readDbl => Sys2Proof.Machine.execReadDbl s
  | .readCrc => Sys2Proof.Machine.execReadCrc s
  | .endOfFrame => Sys2Proof.Machine.execEndOfFrame s
  | .endOfBuffer => Sys2Proof.Machine.execEndOfBuffer s
  | .frameUnicast a f d T => Sys2Proof.Machine.execFrameUnicast a f d T s
  | .frameBroadcast a f d T => Sys2Proof.Machine.execFrameBroadcast a f d T s
  | .frameNop n => Sys2Proof.Machine.execFrameNop n s
  | .frameCmd cmd a args => Sys2Proof.Machine.execFrameCmd cmd a args s
  | .rrInc index count => Sys2Proof.Machine.execRrInc index count s
  | .bcastInc current => Sys2Proof.Machine.execBcastInc current s
  | .lvdtStep c => Sys2Proof.Machine.execLvdtStep c s
  | .openSubnet n => Sys2Proof.Machine.execOpenSubnet n s
  | .closeSubnet => Sys2Proof.Machine.execCloseSubnet s
  | .loadTopology t => Sys2Proof.Machine.execLoadTopology t s
  | .setDisabled cls k b => Sys2Proof.Machine.execSetDisabled cls k b s
  | .build v primary secondary slew steps => Sys2Proof.Machine.execBuild v primary secondary slew steps s
  | .update primary secondary slew steps => Sys2Proof.Machine.execUpdate primary secondary slew steps s
  | .getExpected cls k => Sys2Proof.Machine.execGetExpected cls k s

end Sys2Proof.Machine
end

