-- ==== Sys2Proof/Machine/Step.lean ====
section
/-! DEFINITION. One step: the block takes what the host has presented next (log 3). -/

namespace Sys2Proof.Machine

/-- The block takes the next request from the port and performs it. With nothing presented it holds its state and does
nothing (60_exceptions R315). A code that selects no operation, or lanes that hold no operand, is turned away
(30_encoding R93, 60_exceptions R306). A word that is no wire word raises nothing inside the block (30_encoding R92). -/
def step (s : State) : Host.Outcome State Fault Refusal :=
  match s.requests with
  | [] => .next s
  | r :: rest =>
    match decode s.cfg r with
    | .ok i => exec i { s with requests := rest }
    | .error (.noWireWord _) => .next { s with requests := rest }
    | .error _ => .next (turnAway .refused { s with requests := rest })

/-- `s` with one row of the opcode table presented as the next request, so that the next step takes exactly it. -/
def State.withFetchWord (s : State) (nbits w : Nat) : State :=
  { s with requests := tableRequest nbits w :: s.requests }

end Sys2Proof.Machine
end

