-- ==== Sys2Proof/Machine/Capacity.lean ====
section
/-! DEFINITION. How many words a schedule takes (70_reset_and_hazards R340), and which words `UPDATE` rewrites
(47_buslist R279). -/

namespace Sys2Proof.Machine

/-- `w(cmd) = plen(cmd) + 6` (R340); 0 for a command that has no entry. -/
def frameWords (c : Config) (k : CmdType) : Nat :=
  match c.entry k with
  | some e => payloadLength e.payload + 6
  | none => 0

/-- `n` when the condition holds, else 0: the bracket of R340. -/
def whenHolds (b : Bool) (n : Nat) : Nat := if b then n else 0

/-- The command of the broadcast frame that opens a hardpoint section. -/
def hpCommand (P : Profile) : Option CmdType :=
  match P.hpBroadcast with
  | .none => none
  | .stepMotor => some .broadcastStepMotor
  | .freeze => some .broadcastFreezeSensor

/-- `w` of the hardpoint broadcast frame; 0 when the profile has none. -/
def hpWords (c : Config) (P : Profile) : Nat :=
  match hpCommand P with
  | some k => frameWords c k
  | none => 0

/-- One subnet's term of R340's sum. -/
def subnetWords (c : Config) (P : Profile) (s : State) (T : Topology) (i : Subnet) : Nat :=
  4
  + whenHolds (!T[i].fa.isEmpty && P.faForceDemand) (frameWords c .broadcastForceDemand + 1)
  + whenHolds P.faStatus
      ((s.enabled T .fa i).length * frameWords c .pneumaticForceStatus
        + whenHolds (!(s.enabled T .fa i).isEmpty) (frameWords c .reportServerStatus))
  + whenHolds (!T[i].hp.isEmpty) (hpWords c P)
  + whenHolds P.hpStatus
      ((s.enabled T .hp i).length
        * (frameWords c .electromechanicalForceAndStatus + frameWords c .reportServerStatus))
  + whenHolds P.hmStatus
      ((s.enabled T .hm i).length
        * (frameWords c .readDcaPressure + frameWords c .reportDcaStatus + frameWords c .reportServerStatus))
  + whenHolds P.hmLVDT ((s.enabled T .hm i).length * frameWords c .reportLvdt)

/-- `schedule_words` (R340). -/
def scheduleWords (s : State) (T : Topology) (v : Variant) : Nat :=
  (subnets.map (subnetWords s.cfg (s.cfg.profiles.profile v) s T)).sum

/-- A run of words, from its first index to the index after its last. -/
abbrev Span := Nat × Nat

/-- The span of `n` words from a recorded offset on, if there is one. -/
def spanAt (off : Option Index) (n : Nat) : List Span := off.toList.map (fun o => (o.toNat, o.toNat + n))

/-- The words `UPDATE` may rewrite on one subnet: the force-demand frame, the round-robin frame, the step or freeze frame,
the LVDT block (47_buslist R270). -/
def rewriteSpansOn (s : State) (i : Subnet) : List Span :=
  spanAt s.sub[i].fdOffset (frameWords s.cfg .broadcastForceDemand)
  ++ spanAt s.sub[i].pollOffset (frameWords s.cfg .reportServerStatus)
  ++ spanAt s.sub[i].stepOffset (hpWords s.cfg (s.cfg.profiles.profile s.variant))
  ++ spanAt s.sub[i].lvdtOffset (s.sub[i].hmSched.length * frameWords s.cfg .reportLvdt)

/-- The words `UPDATE` may rewrite. -/
def rewriteSpans (s : State) : List Span := subnets.flatMap (rewriteSpansOn s)

end Sys2Proof.Machine
end

