-- ==== Sys2Proof/Machine/Image.lean ====
section
/-! DEFINITION. The words a frame, a subnet block and a whole schedule consist of (30_encoding R90, R91; 47_buslist R262 to
R266), the registers `BUILD` leaves, and the patches `UPDATE` makes (47_buslist R270 to R277). Nothing here is executed:
these are the terms the statements about `BUILD` and `UPDATE` are written in. -/

namespace Sys2Proof.Machine

/-! ## Frames and blocks -/

/-- The `p + 6` words of a frame (30_encoding R90). -/
def frameImage (c : Config) (a f : Byte) (d : List Byte) (tail : Word) : List Word :=
  (a :: f :: d).map (tag c) ++ (crcPair (crc16 (a :: f :: d))).map (tag c) ++ [c.eofWord, tail]

/-- The words of a scheduled frame (47_buslist R258, 45_frame_factory R208). -/
def scheduledImage (c : Config) (k : CmdType) (a : Byte) (env : FieldArgs) : List Word :=
  match frameParts c k (bindNamed env) with
  | .ok p => frameImage c a p.function p.payload p.tail
  | .error _ => []

/-- A frame without arguments, addressed to a device. -/
def statusImage (c : Config) (k : CmdType) (d : ILCMap) : List Word := scheduledImage c k d.address noArgs

/-- A subnet block around its body (30_encoding R91). -/
def blockImage (c : Config) (i : Subnet) (body : List Word) : List Word :=
  [c.subnetCode[i], BitVec.ofNat 16 (body.length + 2), c.swtrigWord] ++ body ++ [c.irqtrigWord]

/-! ## What `BUILD` writes

`n` is the value of the free-value counter the force gather reads at (log 10). -/

/-- The broadcast force-demand frame and the timestamp (47_buslist R263). -/
def forceImage (T : Topology) (P : Profile) (inp : Inputs) (s : State) (i : Subnet) (n : Nat) : List Word :=
  if P.faForceDemand then
    scheduledImage s.cfg .broadcastForceDemand addrBcastFA (forceArgs n i s.bcast inp T[i].fa) ++ [s.cfg.timestampWord]
  else []

/-- The status frames of the enabled force actuators (47_buslist R263). -/
def faStatusImage (T : Topology) (P : Profile) (s : State) (i : Subnet) : List Word :=
  if P.faStatus then (s.enabled T .fa i).flatMap (statusImage s.cfg .pneumaticForceStatus) else []

/-- The round-robin frame: at `BUILD` its target is the first enabled force actuator (46_roundrobin R236). -/
def pollImage (T : Topology) (P : Profile) (s : State) (i : Subnet) : List Word :=
  if P.faStatus then (s.enabled T .fa i).head?.toList.flatMap (statusImage s.cfg .reportServerStatus) else []

/-- FA section (47_buslist R263); none on a subnet without force actuators (R262). -/
def faImage (T : Topology) (P : Profile) (inp : Inputs) (s : State) (i : Subnet) (n : Nat) : List Word :=
  if T[i].fa = [] then [] else forceImage T P inp s i n ++ faStatusImage T P s i ++ pollImage T P s i

/-- The step-motor or freeze frame (47_buslist R264). -/
def hpBroadcastImage (c : Config) (P : Profile) (bcast : BitVec 8) (inp : Inputs) : List Word :=
  match hpCall P bcast inp with
  | some k => scheduledImage c k.1 addrBcastHP k.2
  | none => []

/-- HP section (47_buslist R264). -/
def hpImage (T : Topology) (P : Profile) (inp : Inputs) (s : State) (i : Subnet) : List Word :=
  if T[i].hp = [] then []
  else
    hpBroadcastImage s.cfg P s.bcast inp ++
      (if P.hpStatus then
        (s.enabled T .hp i).flatMap
          (fun d => statusImage s.cfg .electromechanicalForceAndStatus d ++ statusImage s.cfg .reportServerStatus d)
       else [])

/-- HM section (47_buslist R265). -/
def hmImage (T : Topology) (P : Profile) (s : State) (i : Subnet) : List Word :=
  if P.hmStatus then
    (s.enabled T .hm i).flatMap
      (fun d => statusImage s.cfg .readDcaPressure d ++ statusImage s.cfg .reportDcaStatus d
        ++ statusImage s.cfg .reportServerStatus d)
  else []

/-- LVDT block at `BUILD`, when every slot is real (47_buslist R266, 46_roundrobin R235). -/
def lvdtImage (T : Topology) (P : Profile) (s : State) (i : Subnet) : List Word :=
  if P.hmLVDT then (s.enabled T .hm i).flatMap (statusImage s.cfg .reportLvdt) else []

/-- What stands between the software trigger and the IRQ trigger of a block (47_buslist R262). -/
def bodyImage (T : Topology) (P : Profile) (inp : Inputs) (s : State) (i : Subnet) : List Word :=
  faImage T P inp s i (s.freeCount + i.val) ++ hpImage T P inp s i ++ hmImage T P s i ++ lvdtImage T P s i

/-- One subnet block (47_buslist R262). -/
def subnetImage (T : Topology) (P : Profile) (inp : Inputs) (s : State) (i : Subnet) : List Word :=
  blockImage s.cfg i (bodyImage T P inp s i)

/-- The whole schedule: five blocks in order (47_buslist R260). -/
def scheduleImage (T : Topology) (P : Profile) (inp : Inputs) (s : State) : List Word :=
  subnets.flatMap (subnetImage T P inp s)

/-- Where a subnet's block starts. -/
def blockStart (T : Topology) (P : Profile) (inp : Inputs) (s : State) (i : Subnet) : Nat :=
  ((subnets.take i.val).flatMap (subnetImage T P inp s)).length

/-- A recorded offset: the first index after the block's three opening words and `before` (10_state R28). -/
def offsetIf (present : Bool) (start : Nat) (before : List Word) : Option Index :=
  if present then some (BitVec.ofNat 16 (start + 3 + before.length)) else none

/-- The registers of one subnet after `BUILD` (47_buslist R261 to R266). -/
def builtRegs (T : Topology) (P : Profile) (inp : Inputs) (s : State) (i : Subnet) : SubnetRegs :=
  let start := blockStart T P inp s i
  let n := s.freeCount + i.val
  { rr := 0,
    fdOffset := offsetIf (!T[i].fa.isEmpty && P.faForceDemand) start [],
    pollOffset := offsetIf (!(s.enabled T .fa i).isEmpty && P.faStatus) start
      (forceImage T P inp s i n ++ faStatusImage T P s i),
    stepOffset := offsetIf (!T[i].hp.isEmpty && decide (P.hpBroadcast ≠ .none)) start (faImage T P inp s i n),
    lvdtOffset := offsetIf (!(s.enabled T .hm i).isEmpty && P.hmLVDT) start
      (faImage T P inp s i n ++ hpImage T P inp s i ++ hmImage T P s i),
    pollData := if P.faStatus then (s.enabled T .fa i).head?.map (·.dataIndex) else none,
    hmSched := if P.hmLVDT then s.enabled T .hm i else [] }

/-! ## What `UPDATE` writes -/

/-- A patch: words stored from an index on. -/
abbrev Patch := Nat × List Word

/-- A patch at a recorded offset, if there is one. -/
def patchAt (off : Option Index) (ws : List Word) : List Patch := off.toList.map (fun o => (o.toNat, ws))

/-- Patches stored one after another. -/
def applyPatches (m : Memory) (ps : List Patch) : Memory := ps.foldl (fun m p => m.writeAll p.1 p.2) m

/-- The round-robin cursor after this cycle (47_buslist R274). -/
def nextCursor (s : State) (T : Topology) (i : Subnet) : BitVec 8 :=
  BitVec.ofNat 8 (rrNext s.sub[i].rr.toNat (s.enabled T .fa i).length)

/-- The round-robin target of this cycle (46_roundrobin R236). -/
def nextTarget (s : State) (T : Topology) (i : Subnet) : Option ILCMap :=
  (s.enabled T .fa i)[(nextCursor s T i).toNat]?

/-- One LVDT slot: real when the countdown is 0, else a placeholder of the same length (47_buslist R266). -/
def slotImage (s : State) (d : ILCMap) : List Word :=
  if s.lvdtClock = 0 then statusImage s.cfg .reportLvdt d
  else List.replicate (frameWords s.cfg .reportLvdt) s.cfg.nopWord

/-- The patches of one subnet, in the order of 47_buslist R270. Every broadcast frame carries the new counter value
(R271). -/
def patchesOn (T : Topology) (inp : Inputs) (s : State) (i : Subnet) : List Patch :=
  patchAt s.sub[i].fdOffset
    (scheduledImage s.cfg .broadcastForceDemand addrBcastFA
      (forceArgs s.freeCount i (bcastNext s.cfg s.bcast) inp T[i].fa))
  ++ patchAt s.sub[i].pollOffset ((nextTarget s T i).toList.flatMap (statusImage s.cfg .reportServerStatus))
  ++ patchAt s.sub[i].stepOffset
    (hpBroadcastImage s.cfg (s.cfg.profiles.profile s.variant) (bcastNext s.cfg s.bcast) inp)
  ++ patchAt s.sub[i].lvdtOffset (s.sub[i].hmSched.flatMap (slotImage s))

/-- The patches of one cycle. -/
def patches (T : Topology) (inp : Inputs) (s : State) : List Patch := subnets.flatMap (patchesOn T inp s)

/-- The registers of one subnet after `UPDATE`: only the round-robin cursor and its target move (47_buslist R270). -/
def updatedRegs (T : Topology) (s : State) (i : Subnet) : SubnetRegs :=
  if s.sub[i].pollOffset.isSome then
    { s.sub[i] with rr := nextCursor s T i, pollData := (nextTarget s T i).map (·.dataIndex) }
  else s.sub[i]

/-- The cursor after `UPDATE`: one past the last rewrite's last word (47_buslist R278). -/
def cursorAfter (s : State) (ps : List Patch) : Index :=
  match ps.getLast? with
  | some p => BitVec.ofNat 16 (p.1 + p.2.length)
  | none => s.cursor

end Sys2Proof.Machine
end

