-- ==== Sys2Proof/Machine/Pseudo.lean ====
section
/-! DEFINITION. The pseudo-operations of 30_encoding R97: shorthand for operations. -/

namespace Sys2Proof.Machine

/-- `SEEK off` is `SET_INDEX off`. -/
def pseudoSeek (off : Index) : List Instr := [.setIndex off]

/-- `SKIP n` is `INC_INDEX n`. -/
def pseudoSkip (n : BitVec 16) : List Instr := [.incIndex n]

/-- `TAIL_UNICAST T` is `WRITE_EOF ; WRITE_WAITRX T`. -/
def pseudoTailUnicast (T : BitVec 32) : List Instr := [.writeEof, .writeWaitrx T]

/-- `TAIL_BROADCAST T` is `WRITE_EOF ; WRITE_DELAY T`. -/
def pseudoTailBroadcast (T : BitVec 32) : List Instr := [.writeEof, .writeDelay T]

/-- `FREEZE_LENGTH` is `GET_INDEX -> i ; SET_LENGTH i`: the host passes on the index it is given. -/
def pseudoFreezeLength (s : State) : List Instr := [.getIndex, .setLength s.cursor]

/-- Operations issued one after another; the first that answers no state ends the run (00_scope R11). -/
def execAll : List Instr → State → Host.Outcome State Fault Refusal
  | [], s => .next s
  | i :: is, s =>
    match exec i s with
    | .next t => execAll is t
    | .fault f => .fault f
    | .refused r => .refused r

end Sys2Proof.Machine
end

