-- ==== Sys2Proof/Safety.lean ====
section
/-! DEFINITION. The terms the statements use: what it means to store words, which states are sound, when a schedule's
tables are ready, and what an in-place patch must preserve. -/

namespace Sys2Proof.Machine

/-! ## Storing words -/

/-- `m'` is `m` with the words `ws` stored from an index on and every other index as it was. -/
def Stores (m m' : Memory) (at_ : Nat) (ws : List Word) : Prop :=
  ∀ a, m'.read a = if at_ ≤ a ∧ a < at_ + ws.length then ws[a - at_]? else m.read a

/-- The operation completes: it stores `ws` from the cursor on, moves the cursor past them, and changes nothing
else. -/
def Appends (o : Out) (s : State) (ws : List Word) : Prop :=
  ∃ m, Stores s.mem m s.cursor.toNat ws ∧
    o = .next { s with mem := m, cursor := BitVec.ofNat 16 (s.cursor.toNat + ws.length), out := .done }

/-- The buffer holds the words `ws` from an index on. -/
def Holds (m : Memory) (at_ : Nat) (ws : List Word) : Prop := ∀ k, k < ws.length → m.read (at_ + k) = ws[k]?

/-- Some word of the `n` from an index on has never been written (20_memory R63). -/
def Unwritten (m : Memory) (at_ n : Nat) : Prop := ∃ k, k < n ∧ m.read (at_ + k) = none

/-- The operation completes with a result, moves the cursor forward by `n`, and changes nothing else. -/
def Reads (o : Out) (s : State) (n : Nat) (r : Result) : Prop :=
  o = .next { s with cursor := BitVec.ofNat 16 (s.cursor.toNat + n), out := .result r }

/-- `n` words fit between the cursor and the end of the buffer, and the capacity is a legal one (00_scope R7, decision
D4). -/
def Room (s : State) (n : Nat) : Prop := s.cursor.toNat + n ≤ s.cfg.capacity ∧ s.cfg.capacity ≤ 65535

/-- A writer of the words `ws`: with room it stores them at the cursor, without room it overruns the buffer (20_memory
R62). -/
def Writes (i : Instr) (s : State) (ws : List Word) : Prop :=
  (Room s ws.length → Appends (exec i s) s ws)
  ∧ (s.cfg.capacity < s.cursor.toNat + ws.length → exec i s = .fault .bufferOverrun)

/-- A reader of `n` words: it returns what they hold, overruns the buffer, or meets a word never written (44_readers
R181). -/
def ReadsWords (i : Instr) (s : State) (n : Nat) (value : List Word → Result) : Prop :=
  (∀ ws, ws.length = n → Room s n → Holds s.mem s.cursor.toNat ws → Reads (exec i s) s n (value ws))
  ∧ (s.cfg.capacity < s.cursor.toNat + n → exec i s = .fault .bufferOverrun)
  ∧ (s.cursor.toNat + n ≤ s.cfg.capacity → Unwritten s.mem s.cursor.toNat n → exec i s = .fault .uninitialisedRead)

/-- The `8 * n`-bit pattern `n` data words carry, the first word most significant (44_readers R181). -/
def joined (ws : List Word) : Nat := ws.foldl (fun acc w => 256 * acc + (untag w).toNat) 0

/-- The signed number a pattern of `n` bits stands for (00_scope R10 `sext_N`). -/
def signedOf (n p : Nat) : Int := if p < 2 ^ (n - 1) then (p : Int) else (p : Int) - 2 ^ n

/-- Writing with one operation and reading back with another at the same offset returns `r` and leaves the cursor `n` words
on (41_data_writers R141). -/
def RoundTrips (write read : Instr) (s : State) (n : Nat) (r : Result) : Prop :=
  ∃ t, execAll [.getIndex, write, .setIndex s.cursor, read] s = .next t ∧ t.out = .result r
    ∧ t.cursor.toNat = s.cursor.toNat + n

/-- The operation is turned away: nothing but the port's answer changes (60_exceptions R307). -/
def TurnedAway (o : Out) (s : State) (e : PortEvent) : Prop := o = .next { s with out := .turnedAway e }

/-- The 51 operation codes of 30_encoding R95. -/
def operationCodes : List Nat :=
  List.range' 0x00 9 ++ List.range' 0x10 10 ++ List.range' 0x20 6 ++ List.range' 0x30 12 ++ List.range' 0x40 4
    ++ List.range' 0x50 5 ++ List.range' 0x60 5

/-! ## Frames from a table entry -/

/-- The types of an entry's elements, in order, each field's type once for each of its elements (45_frame_factory
R209). -/
def fieldTypes (e : CmdEntry) : List FieldType := e.payload.flatMap (fun f => List.replicate f.count f.type)

/-- The payload of `FRAME_CMD`: each argument written with the type of its element (45_frame_factory R208). -/
def argumentBytes (e : CmdEntry) (args : List Int) : List Byte :=
  ((fieldTypes e).zip args).flatMap (fun p => typedBytes p.1 p.2)

/-- `WRITE_<type>` of an integer (45_frame_factory R208): the typed writer of a field type, its operand truncated to the
operand's width (70_reset_and_hazards R354). -/
def writerOf (t : FieldType) (z : Int) : Instr :=
  match t with
  | .u8 => .writeU8 (BitVec.ofInt 8 z)
  | .i8 => .writeI8 (BitVec.ofInt 8 z)
  | .i16 => .writeI16 (BitVec.ofInt 16 z)
  | .i24 => .writeI24 (BitVec.ofInt 32 z)
  | .i32 => .writeI32 (BitVec.ofInt 32 z)
  | .u16 => .writeU16 (BitVec.ofInt 16 z)
  | .u32 => .writeU32 (BitVec.ofInt 32 z)
  | .sgl => .writeSgl (BitVec.ofInt 32 z)
  | .dbl => .writeDbl (BitVec.ofInt 64 z)

/-- `bytes_be(trunc(z))` by arithmetic (41_data_writers R131): `n` base-256 digits of an integer, most significant
first. -/
def digits (n : Nat) (z : Int) : List Byte := (List.range n).map (fun k => BitVec.ofInt 8 (z / 256 ^ (n - 1 - k)))

/-! ## What the broadcast frames carry -/

/-- The input value of the force actuator at an address, read at the index `index` picks; 0 when no force actuator has that
address (47_buslist R258). -/
def setpointOf (fas : List ILCMap) (xs : List Int) (index : ILCMap → Int) (address : Nat) : Int :=
  match fas.find? (fun d => decide (d.address.toNat = address)) with
  | some d => (xs[(index d).toNat]?).getD 0
  | none => 0

/-- The values a field of a broadcast frame carries: the counter, the slew byte, slot `k` of the single-axis array from
address `k + 1`, slot `k` of the dual-axis arrays from address `k + 17`, the step counts (45_frame_factory R210, 47_buslist
R258, R264). -/
def carried (bcast : BitVec 8) (inp : Inputs) (fas : List ILCMap) (f : PayloadField) : List Int :=
  match f.name with
  | .counter => [(bcast.toNat : Int)]
  | .slew whenSet whenClear => [if inp.slew then whenSet else whenClear]
  | .saaPrimary n => (List.range' n f.count).map (fun k => setpointOf fas inp.primary (fun d => d.dataIndex) (k + 1))
  | .daaPrimary n => (List.range' n f.count).map (fun k => setpointOf fas inp.primary (fun d => d.dataIndex) (k + 17))
  | .daaSecondary n =>
      (List.range' n f.count).map (fun k => setpointOf fas inp.secondary (fun d => d.secondaryDataIndex) (k + 17))
  | .steps n => (List.range' n f.count).map (fun k => (inp.steps[k]?).getD 0)
  | .other _ => []

/-- The image is the frame of a command whose payload is what its fields carry, in the table's order, each value with the
type of its field. -/
def Carries (c : Config) (k : CmdType) (a : Byte) (image : List Word) (bcast : BitVec 8) (inp : Inputs)
    (fas : List ILCMap) : Prop :=
  ∀ (e : CmdEntry) (T : BitVec 32), c.entry k = some e → c.timeoutOf k = some T →
    image = frameImage c a e.function
      (e.payload.flatMap (fun f => (carried bcast inp fas f).flatMap (typedBytes f.type)))
      (match e.tail with
       | .unicast => waitWord T
       | .broadcast => delayWord T)

/-- The force actuators have addresses of their range, no two the same, and indices inside the inputs (10_state R35, R40;
47_buslist R255). -/
def GatherDefined (inp : Inputs) (fas : List ILCMap) : Prop :=
  (∀ d ∈ fas, 1 ≤ d.address.toNat ∧ d.address.toNat ≤ 48 ∧ d.dataIndex < inp.primary.length
    ∧ (17 ≤ d.address.toNat → 0 ≤ d.secondaryDataIndex ∧ d.secondaryDataIndex.toNat < inp.secondary.length))
  ∧ fas.Pairwise (fun d e => d.address ≠ e.address)

/-! ## Topologies -/

/-- One record on its own is valid (47_buslist R255). -/
def RecordOk (c : Config) (d : ILCMap) : Prop :=
  d.subnet.toNat ≤ 4 ∧ 1 ≤ d.address.toNat ∧ d.address.toNat ≤ 247
  ∧ ((d.type = some .fa ∧ d.address.toNat ≤ 48 ∧ d.dataIndex < c.nFA)
    ∨ (d.type = some .hp ∧ d.dataIndex < c.nHP) ∨ (d.type = some .hm ∧ d.dataIndex < c.nHM))

/-- The records of one class on one subnet, in the order of the list. -/
def recordsOn (t : List ILCMap) (i : Subnet) (k : DeviceClass) : List ILCMap :=
  t.filter (fun d => decide (d.subnet.toNat = i.val ∧ d.type = some k))

/-- `valid(t)` of 47_buslist R255. -/
def TopologyOk (c : Config) (t : List ILCMap) : Prop :=
  (∀ d ∈ t, RecordOk c d)
  ∧ t.Pairwise (fun d e => d.subnet = e.subnet → d.address ≠ e.address)
  ∧ t.Pairwise (fun d e => d.type = e.type → d.dataIndex ≠ e.dataIndex)
  ∧ ∀ i k, (recordsOn t i k).length ≤ 255

/-- No two devices of one class share a `DataIndex`: the devices of a class, subnet by subnet, have distinct ones. -/
def DistinctIndices (T : Topology) : Prop :=
  ∀ k : DeviceClass, ((subnets.flatMap (fun i => T[i].devices k)).map (·.dataIndex)).Nodup

/-! ## The expected-response table -/

/-- Some subnet has an enabled device of this class with this `DataIndex`. -/
def hasEnabled (T : Topology) (s : State) (k : DeviceClass) (j : Nat) : Bool :=
  subnets.any (fun i => (s.enabled T k i).any (fun d => decide (d.dataIndex = j)))

/-- Some subnet's round-robin frame addresses the force actuator with this `DataIndex`. -/
def isPolled (s : State) (j : Nat) : Bool := subnets.any (fun i => decide (s.sub[i].pollData = some j))

/-- The monitor with this `DataIndex` has an LVDT slot. -/
def hasSlot (s : State) (j : Nat) : Bool := subnets.any (fun i => s.sub[i].hmSched.any (fun d => decide (d.dataIndex = j)))

/-- The base counts `BUILD` leaves: `n` for an enabled device whose frames the profile has, else 0 (10_state R39). -/
def BaseCounts (T : Topology) (s : State) (k : DeviceClass) (emitted : Bool) (n : Nat) : Prop :=
  ∀ j, j < s.cfg.bankSize k → (s.baseOf k j).toNat = if emitted && hasEnabled T s k j then n else 0

/-- The accounting of 47_buslist R280: an entry is its base count, plus one for the current round-robin target, plus one
for a monitor whose slot in this cycle is real. -/
def Accounts (real : Bool) (s : State) : Prop :=
  (∀ j, j < s.cfg.nFA →
    (s.expOf .fa j).toNat = (s.baseOf .fa j).toNat + if isPolled s j then 1 else 0)
  ∧ (∀ j, j < s.cfg.nHP → s.expOf .hp j = s.baseOf .hp j)
  ∧ (∀ j, j < s.cfg.nHM →
    (s.expOf .hm j).toNat = (s.baseOf .hm j).toNat + if real && hasSlot s j then 1 else 0)

/-- The recorded round-robin targets are force actuators of their subnets. -/
def PollKnown (T : Topology) (s : State) : Prop :=
  ∀ i : Subnet, ∀ p ∈ s.sub[i].pollData, ∃ d ∈ T[i].fa, d.dataIndex = p

/-! ## Consecutive cycles -/

/-- The states `ts` follow one another from `s` on, each left by an `UPDATE` that completed. -/
def Cycles (s : State) : List State → Prop
  | [] => True
  | t :: ts =>
    (∃ inp : Inputs, exec (.update inp.primary inp.secondary inp.slew inp.steps) s = .next t ∧ t.out = .done)
    ∧ Cycles t ts

/-! ## What writes the cursor and the buffer -/

/-- The operations 10_state R23 lets write the cursor: the seeks, every writer and every reader, the frame operations, the
subnet operations, `BUILD` and `UPDATE`. -/
def writesCursor : Instr → Bool
  | .setIndex _ | .incIndex _ | .reset | .writeRaw _ | .readRaw | .writeU8 _ | .writeI8 _ | .writeI16 _ | .writeI24 _
  | .writeI32 _ | .writeU16 _ | .writeU32 _ | .writeSgl _ | .writeDbl _ | .writeCrc _ | .writeEof | .writeTimestamp
  | .writeDelay _ | .writeWaitrx _ | .writeSwtrigger | .writeIrqtrigger | .readU8 | .readI8 | .readI16 | .readI24
  | .readI32 | .readU16 | .readU32 | .readSgl | .readDbl | .readCrc | .frameUnicast _ _ _ _ | .frameBroadcast _ _ _ _
  | .frameNop _ | .frameCmd _ _ _ | .openSubnet _ | .closeSubnet | .build _ _ _ _ _ | .update _ _ _ _ => true
  | .wData _ | .wEof | .wTimestamp | .wDelayUs _ | .wDelayMs _ | .wWaitrxUs _ | .wIrqtrig | .wSwtrig | .wWaitrxMs _
  | .wRxEof | .getIndex | .getLength | .setLength _ | .poke _ _ | .endOfFrame | .endOfBuffer | .rrInc _ _
  | .bcastInc _ | .lvdtStep _ | .loadTopology _ | .setDisabled _ _ _ | .getExpected _ _ => false

/-- The operations whose rules write words of the buffer (10_state R22; 40_cursor_ops to 47_buslist): the writers, `POKE`,
the frame operations, the subnet operations, `BUILD` and `UPDATE`. -/
def writesWords : Instr → Bool
  | .writeRaw _ | .poke _ _ | .writeU8 _ | .writeI8 _ | .writeI16 _ | .writeI24 _ | .writeI32 _ | .writeU16 _
  | .writeU32 _ | .writeSgl _ | .writeDbl _ | .writeCrc _ | .writeEof | .writeTimestamp | .writeDelay _
  | .writeWaitrx _ | .writeSwtrigger | .writeIrqtrigger | .frameUnicast _ _ _ _ | .frameBroadcast _ _ _ _
  | .frameNop _ | .frameCmd _ _ _ | .openSubnet _ | .closeSubnet | .build _ _ _ _ _ | .update _ _ _ _ => true
  | .wData _ | .wEof | .wTimestamp | .wDelayUs _ | .wDelayMs _ | .wWaitrxUs _ | .wIrqtrig | .wSwtrig | .wWaitrxMs _
  | .wRxEof | .getIndex | .setIndex _ | .incIndex _ | .reset | .getLength | .setLength _ | .readRaw | .readU8
  | .readI8 | .readI16 | .readI24 | .readI32 | .readU16 | .readU32 | .readSgl | .readDbl | .readCrc | .endOfFrame
  | .endOfBuffer | .rrInc _ _ | .bcastInc _ | .lvdtStep _ | .loadTopology _ | .setDisabled _ _ _
  | .getExpected _ _ => false

/-! ## Sound states -/

/-- Every entry of a bank is at most `n`. -/
def bankBelow (xs : List (BitVec 3)) (n : Nat) : Bool := xs.all (fun x => decide (x.toNat ≤ n))

/-- The banks have the sizes of 10_state R38. -/
def banksSized {α : Type} (c : Config) (b : Banks α) : Bool :=
  decide (b.fa.length = c.nFA) && decide (b.hp.length = c.nHP) && decide (b.hm.length = c.nHM)

/-- Every list of a loaded topology has at most 255 devices, each with a `DataIndex` inside its bank (47_buslist
R255). -/
def topologySized (c : Config) (T : Topology) : Bool :=
  subnets.all (fun i =>
    [DeviceClass.fa, .hp, .hm].all (fun k =>
      decide ((T[i].devices k).length ≤ 255) && (T[i].devices k).all (fun d => decide (d.dataIndex < c.bankSize k))))

/-- What every state the block can be in satisfies: a legal instance, a canonical buffer inside the capacity, registers in
their ranges (10_state R25 to R39), a topology exactly when configured. -/
abbrev Inv (s : State) : Prop :=
  s.cfg.legal = true
  ∧ s.mem.wf = true
  ∧ (∀ p ∈ s.mem, p.1 < s.cfg.capacity)
  ∧ s.lvdtClock.toNat ≤ 4
  ∧ s.bcast.toNat < s.cfg.bcastMod
  ∧ (s.phase = .unconfigured ↔ s.topology = none)
  ∧ (∀ T ∈ s.topology, topologySized s.cfg T = true ∧ banksSized s.cfg s.disabled = true)
  ∧ banksSized s.cfg s.exp = true
  ∧ banksSized s.cfg s.base = true
  ∧ (bankBelow s.base.fa 1 && bankBelow s.base.hp 2 && bankBelow s.base.hm 3) = true
  ∧ (bankBelow s.exp.fa 2 && bankBelow s.exp.hp 2 && bankBelow s.exp.hm 4) = true
  ∧ (∀ i : Subnet, s.sub[i].pollOffset.isSome = s.sub[i].pollData.isSome)
  ∧ (∀ i : Subnet, s.sub[i].lvdtOffset = none → s.sub[i].hmSched = [])
  ∧ (∀ T ∈ s.topology, s.phase = .built → ∀ i : Subnet, s.sub[i].rr.toNat < max 1 T[i].fa.length)

/-! ## Tables a schedule can be built from -/

/-- A field of the broadcast force demand (45_frame_factory R210): counter, slew flag, or slots that exist. -/
def forceFieldOk (f : PayloadField) : Bool :=
  match f.name with
  | .counter => decide (f.count = 1) && f.type.oneByte
  | .slew _ _ => decide (f.count = 1)
  | .saaPrimary first => decide (first + f.count ≤ 16)
  | .daaPrimary first => decide (first + f.count ≤ 32)
  | .daaSecondary first => decide (first + f.count ≤ 32)
  | .steps _ => false
  | .other _ => false

/-- A field of the broadcast step-motor frame: counter, or steps that exist. -/
def stepFieldOk (c : Config) (f : PayloadField) : Bool :=
  match f.name with
  | .counter => decide (f.count = 1) && f.type.oneByte
  | .steps first => decide (first + f.count ≤ c.nHP)
  | _ => false

/-- A field of the freeze frame: the counter. -/
def freezeFieldOk (f : PayloadField) : Bool :=
  match f.name with
  | .counter => decide (f.count = 1) && f.type.oneByte
  | _ => false

/-- A field a scheduled frame of a command can fill; the status frames have no arguments, so none. -/
def fieldOk (c : Config) : CmdType → PayloadField → Bool
  | .broadcastForceDemand => forceFieldOk
  | .broadcastStepMotor => stepFieldOk c
  | .broadcastFreezeSensor => freezeFieldOk
  | _ => fun _ => false

/-- The command has its entries in `CMD_TABLE` and `TIMEOUT`, and a scheduled frame can fill every field of its payload. -/
def commandKnown (c : Config) (k : CmdType) : Bool :=
  match c.entry k, c.timeoutOf k with
  | some e, some _ => e.payload.all (fieldOk c k)
  | _, _ => false

/-- The command misses an entry in `CMD_TABLE` or in `TIMEOUT`. -/
def CommandMissing (c : Config) (k : CmdType) : Prop := c.entry k = none ∨ c.timeoutOf k = none

/-- The command's time-out exceeds 4,094,999 (43_control_words R166). -/
def TimeoutTooLong (c : Config) (k : CmdType) : Prop := ∃ T ∈ c.timeoutOf k, 4094999 < T.toNat

/-- A scheduled frame of the command can be composed (70_reset_and_hazards R332 step 1). -/
def CommandReady (c : Config) (k : CmdType) : Prop := commandKnown c k = true ∧ ¬ TimeoutTooLong c k

/-- The commands `BUILD` composes frames of on one subnet (47_buslist R262 to R266). -/
def buildCommandsOn (T : Topology) (P : Profile) (s : State) (i : Subnet) : List CmdType :=
  (if !T[i].fa.isEmpty && P.faForceDemand then [.broadcastForceDemand] else [])
  ++ (if !(s.enabled T .fa i).isEmpty && P.faStatus then [.pneumaticForceStatus, .reportServerStatus] else [])
  ++ (if T[i].hp.isEmpty then [] else (hpCommand P).toList)
  ++ (if !(s.enabled T .hp i).isEmpty && P.hpStatus then [.electromechanicalForceAndStatus, .reportServerStatus]
      else [])
  ++ (if !(s.enabled T .hm i).isEmpty && P.hmStatus then [.readDcaPressure, .reportDcaStatus, .reportServerStatus]
      else [])
  ++ (if !(s.enabled T .hm i).isEmpty && P.hmLVDT then [.reportLvdt] else [])

/-- The commands `BUILD` composes frames of. -/
def buildCommands (T : Topology) (P : Profile) (s : State) : List CmdType := subnets.flatMap (buildCommandsOn T P s)

/-- The commands `UPDATE` composes frames of on one subnet (47_buslist R272 to R277): the LVDT report only in a cycle whose
slots are real. -/
def updateCommandsOn (s : State) (i : Subnet) : List CmdType :=
  (if s.sub[i].fdOffset.isSome then [.broadcastForceDemand] else [])
  ++ (if s.sub[i].pollOffset.isSome then [.reportServerStatus] else [])
  ++ (if s.sub[i].stepOffset.isSome then (hpCommand (s.cfg.profiles.profile s.variant)).toList else [])
  ++ (if s.sub[i].lvdtOffset.isSome && !s.sub[i].hmSched.isEmpty && decide (s.lvdtClock = 0) then [.reportLvdt] else [])

/-- The commands `UPDATE` composes frames of. -/
def updateCommands (s : State) : List CmdType := subnets.flatMap (updateCommandsOn s)

/-- Some subnet has an LVDT slot, real or placeholder. -/
def HasSlots (s : State) : Prop := ∃ i : Subnet, s.sub[i].lvdtOffset.isSome = true ∧ s.sub[i].hmSched ≠ []

/-! ## The layout of a built schedule -/

/-- Two spans share no index. -/
abbrev Span.apart (p q : Span) : Prop := p.2 ≤ q.1 ∨ q.2 ≤ p.1

/-- The layout an in-place patch relies on (20_memory R67, R74; 47_buslist R279): the rewritten frames lie inside the valid
region and share no word, and each recorded offset holds the address byte of its frame; where the frame is a monitor's
LVDT slot, that of the first latched monitor, or the placeholder's word (95_test_vectors P4). -/
def Layout (s : State) : Prop :=
  s.length.toNat ≤ s.cfg.capacity
  ∧ (rewriteSpans s).Pairwise Span.apart
  ∧ (∀ p ∈ rewriteSpans s, p.2 ≤ s.length.toNat)
  ∧ (∀ i : Subnet, ∀ o ∈ s.sub[i].fdOffset, s.mem.read o.toNat = some (tag s.cfg 248#8))
  ∧ (∀ i : Subnet, ∀ o ∈ s.sub[i].stepOffset,
      (s.cfg.profiles.profile s.variant).hpBroadcast ≠ .none ∧ s.mem.read o.toNat = some (tag s.cfg 249#8))
  ∧ (∀ i : Subnet, ∀ o ∈ s.sub[i].pollOffset, ∃ T ∈ s.topology, ∃ d ∈ T[i].fa,
      s.mem.read o.toNat = some (tag s.cfg d.address))
  ∧ (∀ i : Subnet, ∀ o ∈ s.sub[i].lvdtOffset, ∃ d ∈ s.sub[i].hmSched.head?,
      s.mem.read o.toNat = some (tag s.cfg d.address) ∨ s.mem.read o.toNat = some s.cfg.nopWord)

/-- Every recorded frame of a state `UPDATE` starts from lies inside the capacity. -/
def SpansFit (s : State) : Prop := ∀ p ∈ rewriteSpans s, p.2 ≤ s.cfg.capacity

/-- The inputs have the shapes of 10_state R40. -/
def Shaped (s : State) (inp : Inputs) : Prop := inp.primary.length = s.cfg.nFA ∧ inp.steps.length = s.cfg.nHP

/-- `BUILD` is admitted with these inputs: a topology is loaded, no block is open, the inputs have their shapes (47_buslist
R250, R260). -/
def BuildAdmitted (s : State) (T : Topology) (inp : Inputs) : Prop :=
  s.phase ≠ .unconfigured ∧ s.topology = some T ∧ s.openBlock = none ∧ Shaped s inp

/-- `BUILD` may run with variant `x`: it is admitted, and every command it composes a frame of is ready
(70_reset_and_hazards R332). -/
def BuildReady (s : State) (T : Topology) (x : Variant) (inp : Inputs) : Prop :=
  s.cfg.parametersLegal = true ∧ BuildAdmitted s T inp
  ∧ ∀ k ∈ buildCommands T (s.cfg.profiles.profile x) s, CommandReady s.cfg k

/-- `UPDATE` is admitted with these inputs: a schedule is built, the inputs have their shapes (47_buslist R270). -/
def UpdateAdmitted (s : State) (T : Topology) (inp : Inputs) : Prop :=
  s.phase = .built ∧ s.topology = some T ∧ Shaped s inp

/-- `UPDATE` may run: it is admitted, the frames lie inside the buffer, every command it composes a frame of is ready, and
an LVDT slot has a length. -/
def UpdateReady (s : State) (T : Topology) (inp : Inputs) : Prop :=
  s.cfg.parametersLegal = true ∧ UpdateAdmitted s T inp ∧ SpansFit s
  ∧ (∀ k ∈ updateCommands s, CommandReady s.cfg k)
  ∧ (HasSlots s → s.cfg.entry .reportLvdt ≠ none)

/-- Every subnet with a round-robin frame has an enabled force actuator: what 47_buslist R275 asks of the host. -/
def PollsEnabled (s : State) (T : Topology) : Prop :=
  ∀ i : Subnet, s.sub[i].pollOffset.isSome = true → s.enabled T .fa i ≠ []

end Sys2Proof.Machine
end

