-- ==== Sys2Proof/Certificates/Slice0/Obligations.lean ====
section
/-! DEFINITION. What is claimed of the model, statement by statement. -/

open Sys2Proof Sys2Proof.Machine

/-! ## Encoding -/

/-- Decoding the encoding of a well-formed operation gives it back, with every operand at every value its lanes admit
(30_encoding R95; the operand lanes are the model's, log 4). -/
def Obligations.OperationDecodesBackToItself : Prop :=
  ∀ (c : Config) (i : Instr), i.wellFormed = true → (opcode i).isSome = true → decode c (encode c i) = .ok i

/-- Under a legal configuration a wire word decodes to an instruction exactly when it is that instruction's word
(30_encoding R82, R84 to R86). That the whole row pattern must match is the model's reading, log 19. -/
def Obligations.WireWordDecodesExactlyToItsInstruction : Prop :=
  ∀ c : Config, c.parametersLegal = true → ∀ (i : Instr) (w : Word), decode c (.wireWord w) = .ok i ↔ encodeWire c i = some w

/-- Words written out from 30_encoding R82 to R85 and codes from R95 decode to what they stand for. -/
def Obligations.WrittenOutWordsDecode : Prop :=
  decode Config.standard (.wireWord 0x13FE#16) = .ok (.wData 0xFF#8)
  ∧ decode Config.standard (.wireWord 0x412C#16) = .ok (.wDelayUs 300#12)
  ∧ decode Config.standard (.wireWord 0x9005#16) = .ok (.wWaitrxMs 5#12)
  ∧ decode Config.standard (.operation [0x01#8, 0x12#8, 0x34#8]) = .ok (.setIndex 0x1234#16)
  ∧ decode Config.standard (.operation [0x16#8, 0xDE#8, 0xAD#8, 0xBE#8, 0xEF#8]) = .ok (.writeU32 0xDEADBEEF#32)
  ∧ decode Config.standard (.operation [0x3B#8]) = .ok .endOfBuffer
  ∧ decode Config.standard (.operation [0x53#8, 0x04#8]) = .ok (.openSubnet 4#8)

/-- A code outside the table selects no operation: the port turns it away and nothing else changes (60_exceptions R306). -/
def Obligations.UnknownOperationCodeIsTurnedAway : Prop :=
  ∀ (s : State) (code : Byte) (lanes : List Byte) (rest : List Request), code.toNat ∉ operationCodes →
    s.requests = .operation (code :: lanes) :: rest →
    step s = .next { s with requests := rest, out := .turnedAway .refused }

/-- One step takes the next request and runs the instruction it decodes to; with nothing presented the block holds its state
(00_scope R11, 60_exceptions R315; the request list is the model's, log 3). A word that is no wire word raises nothing inside
the block (30_encoding R92); that an operation whose lanes hold no operand is turned away is the model's choice, log 4. -/
def Obligations.StepRunsTheDecodedInstruction : Prop :=
  (∀ (s : State) (r : Request) (rest : List Request) (i : Instr), s.requests = r :: rest → decode s.cfg r = .ok i →
    step s = exec i { s with requests := rest })
  ∧ (∀ s : State, s.requests = [] → step s = .next s)
  ∧ (∀ (s : State) (w : Word) (rest : List Request) (e : DecodeError), s.requests = .wireWord w :: rest →
    decode s.cfg (.wireWord w) = .error e → step s = .next { s with requests := rest })
  ∧ ∀ (s : State) (bytes : List Byte) (rest : List Request) (e : DecodeError),
    s.requests = .operation bytes :: rest → decode s.cfg (.operation bytes) = .error e →
    step s = .next { s with requests := rest, out := .turnedAway .refused }

/-- The classifier answers by the high nibble alone, each assigned nibble naming its kind, and an unassigned nibble names no
word (30_encoding R85, R92). -/
def Obligations.ClassifierAnswersByHighNibble : Prop :=
  ∀ c : Config, c.parametersLegal = true → ∀ w : Word,
    (classify c w = some .data ↔ nibble w = nibble c.dataTag)
    ∧ (classify c w = some .eof ↔ nibble w = nibble c.eofWord)
    ∧ (classify c w = some .timestamp ↔ nibble w = nibble c.timestampWord)
    ∧ (classify c w = some .delayUs ↔ nibble w = 4#4)
    ∧ (classify c w = some .delayMs ↔ nibble w = 5#4)
    ∧ (classify c w = some .waitrxUs ↔ nibble w = 6#4)
    ∧ (classify c w = some .irqtrig ↔ nibble w = nibble c.irqtrigWord)
    ∧ (classify c w = some .swtrig ↔ nibble w = nibble c.swtrigWord)
    ∧ (classify c w = some .waitrxMs ↔ nibble w = 9#4)
    ∧ (classify c w = some .rxEof ↔ nibble w = nibble c.rxEofWord)
    ∧ (nibble w ∉ c.nibbles → classify c w = none ∧ decode c (.wireWord w) = .error (.noWireWord w))

/-- Untagging reads bits 8:1 of whatever word it is given, and gives back a tagged byte under every legal tag (30_encoding
R83). -/
def Obligations.UntaggingIgnoresTheTag : Prop :=
  (∀ (c : Config) (b : Byte), c.dataTag &&& 0x01FE#16 = 0#16 → untag (tag c b) = b)
  ∧ ∀ w : Word, (untag w).toNat = w.toNat / 2 % 256

/-- The argument of a delay or wait-for-rx word and the duration it denotes (30_encoding R87, R88). -/
def Obligations.DurationsAreEncodedAndDecoded : Prop :=
  ∀ c : Config, c.parametersLegal = true →
    (∀ v : BitVec 12, wireDuration c (0x4000#16 ||| v.setWidth 16) = some v.toNat
      ∧ wireDuration c (0x6000#16 ||| v.setWidth 16) = some v.toNat
      ∧ wireDuration c (0x5000#16 ||| v.setWidth 16) = some (v.toNat * 1000)
      ∧ wireDuration c (0x9000#16 ||| v.setWidth 16) = some (v.toNat * 1000))
    ∧ (∀ T : BitVec 32, T.toNat < 4096 →
      wireDuration c (delayWord T) = some T.toNat ∧ wireDuration c (waitWord T) = some T.toNat)
    ∧ (∀ T : BitVec 32, 4096 ≤ T.toNat → (T.toNat / 1000 + 1 < 4096 ↔ T.toNat ≤ 4094999))
    ∧ ∀ T : BitVec 32, 4096 ≤ T.toNat → T.toNat ≤ 4094999 →
      wireDuration c (delayWord T) = some ((T.toNat / 1000 + 1) * 1000)
      ∧ wireDuration c (waitWord T) = some ((T.toNat / 1000 + 1) * 1000)
      ∧ 5 ≤ T.toNat / 1000 + 1
      ∧ T.toNat < (T.toNat / 1000 + 1) * 1000 ∧ (T.toNat / 1000 + 1) * 1000 ≤ T.toNat + 1000
      ∧ ((T.toNat / 1000 + 1) * 1000 = T.toNat + 1000 ↔ T.toNat % 1000 = 0)

/-! ## Cursor, length and raw words -/

/-- `GET_INDEX` and `GET_LENGTH` return their register and write none (40_cursor_ops R110, R114). -/
def Obligations.IndexAndLengthAreReturned : Prop :=
  opcode .getIndex = some 0x00#8 ∧ opcode .getLength = some 0x04#8
  ∧ ∀ s : State,
    exec .getIndex s = .next { s with out := .result (.unsigned s.cursor.toNat) }
    ∧ exec .getLength s = .next { s with out := .result (.unsigned s.length.toNat) }

/-- `SET_INDEX`, `RESET` and `SET_LENGTH` write their one register and nothing else, whatever the operand (40_cursor_ops
R111, R113, R115). -/
def Obligations.SeekResetAndSetLengthWriteOneRegister : Prop :=
  (∀ i : Index, opcode (.setIndex i) = some 0x01#8 ∧ opcode (.setLength i) = some 0x05#8)
  ∧ opcode .reset = some 0x03#8
  ∧ ∀ (s : State) (i : Index),
    exec (.setIndex i) s = .next { s with cursor := i, out := .done }
    ∧ exec .reset s = .next { s with cursor := 0, out := .done }
    ∧ exec (.setLength i) s = .next { s with length := i, out := .done }

/-- `INC_INDEX` adds its signed count inside 0 .. 65535 and faults outside it (40_cursor_ops R112). -/
def Obligations.IncIndexAddsInsideTheIndexRange : Prop :=
  ∀ (s : State) (n : BitVec 16),
    opcode (.incIndex n) = some 0x02#8
    ∧ (0 ≤ (s.cursor.toNat : Int) + n.toInt ∧ (s.cursor.toNat : Int) + n.toInt ≤ 65535 →
      ∃ k : Index, (k.toNat : Int) = (s.cursor.toNat : Int) + n.toInt
        ∧ exec (.incIndex n) s = .next { s with cursor := k, out := .done })
    ∧ ((s.cursor.toNat : Int) + n.toInt < 0 ∨ 65535 < (s.cursor.toNat : Int) + n.toInt →
      exec (.incIndex n) s = .fault .indexRange)

/-- `WRITE_RAW` stores its word as given (40_cursor_ops R116). -/
def Obligations.WriteRawStoresTheWordAsGiven : Prop :=
  ∀ (s : State) (w : Word), opcode (.writeRaw w) = some 0x06#8 ∧ Writes (.writeRaw w) s [w]

/-- `READ_RAW` returns all 16 bits of the word as stored (40_cursor_ops R117). -/
def Obligations.ReadRawReturnsTheWordAsStored : Prop :=
  opcode .readRaw = some 0x07#8
  ∧ ∀ s : State, ReadsWords .readRaw s 1 (fun ws => .unsigned (ws.headD 0).toNat)

/-- `POKE` stores one word at its index and leaves the cursor and the length (40_cursor_ops R118). -/
def Obligations.PokeStoresAtItsIndex : Prop :=
  ∀ (s : State) (i : Index) (w : Word),
    opcode (.poke i w) = some 0x08#8
    ∧ (i.toNat < s.cfg.capacity →
      ∃ m, Stores s.mem m i.toNat [w] ∧ exec (.poke i w) s = .next { s with mem := m, out := .done })
    ∧ (s.cfg.capacity ≤ i.toNat → exec (.poke i w) s = .fault .bufferOverrun)

/-! ## Typed writers and readers -/

/-- The nine typed writers store the bytes of their operand, most significant first, each as a data word (41_data_writers
R131 to R140). -/
def Obligations.TypedWritersStoreBigEndianDataWords : Prop :=
  ∀ (s : State) (b : BitVec 8) (h : BitVec 16) (v : BitVec 32) (q : BitVec 64),
    Writes (.writeU8 b) s [tag s.cfg b]
    ∧ Writes (.writeI8 b) s [tag s.cfg b]
    ∧ Writes (.writeI16 h) s [tag s.cfg (h.extractLsb' 8 8), tag s.cfg (h.extractLsb' 0 8)]
    ∧ Writes (.writeI24 v) s
        [tag s.cfg (v.extractLsb' 16 8), tag s.cfg (v.extractLsb' 8 8), tag s.cfg (v.extractLsb' 0 8)]
    ∧ Writes (.writeI32 v) s
        [tag s.cfg (v.extractLsb' 24 8), tag s.cfg (v.extractLsb' 16 8), tag s.cfg (v.extractLsb' 8 8),
          tag s.cfg (v.extractLsb' 0 8)]
    ∧ Writes (.writeU16 h) s [tag s.cfg (h.extractLsb' 8 8), tag s.cfg (h.extractLsb' 0 8)]
    ∧ Writes (.writeU32 v) s
        [tag s.cfg (v.extractLsb' 24 8), tag s.cfg (v.extractLsb' 16 8), tag s.cfg (v.extractLsb' 8 8),
          tag s.cfg (v.extractLsb' 0 8)]
    ∧ Writes (.writeSgl v) s
        [tag s.cfg (v.extractLsb' 24 8), tag s.cfg (v.extractLsb' 16 8), tag s.cfg (v.extractLsb' 8 8),
          tag s.cfg (v.extractLsb' 0 8)]
    ∧ Writes (.writeDbl q) s
        [tag s.cfg (q.extractLsb' 56 8), tag s.cfg (q.extractLsb' 48 8), tag s.cfg (q.extractLsb' 40 8),
          tag s.cfg (q.extractLsb' 32 8), tag s.cfg (q.extractLsb' 24 8), tag s.cfg (q.extractLsb' 16 8),
          tag s.cfg (q.extractLsb' 8 8), tag s.cfg (q.extractLsb' 0 8)]
    ∧ [opcode (.writeU8 b), opcode (.writeI8 b), opcode (.writeI16 h), opcode (.writeI24 v), opcode (.writeI32 v),
        opcode (.writeU16 h), opcode (.writeU32 v), opcode (.writeSgl v), opcode (.writeDbl q)]
      = [some 0x10#8, some 0x11#8, some 0x12#8, some 0x13#8, some 0x14#8, some 0x15#8, some 0x16#8, some 0x17#8,
        some 0x18#8]

/-- The nine typed readers return the value their words carry, zero- or sign-extended, move the cursor and look at neither tag
nor length (44_readers R181 to R190). -/
def Obligations.TypedReadersReturnWhatTheWordsCarry : Prop :=
  (∀ s : State,
    ReadsWords .readU8 s 1 (fun ws => .unsigned (joined ws))
    ∧ ReadsWords .readI8 s 1 (fun ws => .signed (signedOf 8 (joined ws)))
    ∧ ReadsWords .readI16 s 2 (fun ws => .signed (signedOf 16 (joined ws)))
    ∧ ReadsWords .readI24 s 3 (fun ws => .signed (signedOf 24 (joined ws)))
    ∧ ReadsWords .readI32 s 4 (fun ws => .signed (signedOf 32 (joined ws)))
    ∧ ReadsWords .readU16 s 2 (fun ws => .unsigned (joined ws))
    ∧ ReadsWords .readU32 s 4 (fun ws => .unsigned (joined ws))
    ∧ ReadsWords .readSgl s 4 (fun ws => .unsigned (joined ws))
    ∧ ReadsWords .readDbl s 8 (fun ws => .unsigned (joined ws)))
  ∧ [opcode .readU8, opcode .readI8, opcode .readI16, opcode .readI24, opcode .readI32, opcode .readU16,
      opcode .readU32, opcode .readSgl, opcode .readDbl]
    = [some 0x30#8, some 0x31#8, some 0x32#8, some 0x33#8, some 0x34#8, some 0x35#8, some 0x36#8, some 0x37#8,
      some 0x38#8]

/-- Write then read at the same offset returns the original value, for every type and every operand in its range
(41_data_writers R141). -/
def Obligations.WriteThenReadReturnsTheValue : Prop :=
  ∀ s : State, s.cfg.parametersLegal = true →
    (Room s 1 → ∀ b : BitVec 8,
      RoundTrips (.writeU8 b) .readU8 s 1 (.unsigned b.toNat) ∧ RoundTrips (.writeI8 b) .readI8 s 1 (.signed b.toInt))
    ∧ (Room s 2 → ∀ h : BitVec 16,
      RoundTrips (.writeU16 h) .readU16 s 2 (.unsigned h.toNat)
      ∧ RoundTrips (.writeI16 h) .readI16 s 2 (.signed h.toInt))
    ∧ (Room s 3 → ∀ v : BitVec 32, -8388608 ≤ v.toInt → v.toInt ≤ 8388607 →
      RoundTrips (.writeI24 v) .readI24 s 3 (.signed v.toInt))
    ∧ (Room s 4 → ∀ v : BitVec 32,
      RoundTrips (.writeU32 v) .readU32 s 4 (.unsigned v.toNat)
      ∧ RoundTrips (.writeI32 v) .readI32 s 4 (.signed v.toInt)
      ∧ RoundTrips (.writeSgl v) .readSgl s 4 (.unsigned v.toNat))
    ∧ (Room s 8 → ∀ q : BitVec 64, RoundTrips (.writeDbl q) .readDbl s 8 (.unsigned q.toNat))

/-- `END_OF_FRAME` compares all 16 bits of the word at the cursor, `END_OF_BUFFER` compares cursor and length; neither moves
anything (44_readers R192, R193). -/
def Obligations.PredicatesAnswerWithoutMoving : Prop :=
  opcode .endOfFrame = some 0x3A#8 ∧ opcode .endOfBuffer = some 0x3B#8
  ∧ (∀ (s : State) (w : Word), s.cursor.toNat < s.cfg.capacity → s.mem.read s.cursor.toNat = some w →
    exec .endOfFrame s = .next { s with out := .result (.bit (decide (w = s.cfg.rxEofWord))) })
  ∧ (∀ s : State, s.cfg.capacity ≤ s.cursor.toNat → exec .endOfFrame s = .fault .bufferOverrun)
  ∧ (∀ s : State, s.cursor.toNat < s.cfg.capacity → s.mem.read s.cursor.toNat = none →
    exec .endOfFrame s = .fault .uninitialisedRead)
  ∧ ∀ s : State,
    exec .endOfBuffer s = .next { s with out := .result (.bit (decide (s.length.toNat ≤ s.cursor.toNat))) }

/-! ## CRC -/

/-- `WRITE_CRC` appends the CRC of the bytes of the window below the cursor, low byte first (42_crc R152). -/
def Obligations.WriteCrcAppendsTheCrcOfItsWindow : Prop :=
  ∀ (s : State) (n : BitVec 16),
    opcode (.writeCrc n) = some 0x19#8
    ∧ (∀ ws : List Word, n.toNat ≤ s.cursor.toNat → ws.length = n.toNat →
      Holds s.mem (s.cursor.toNat - n.toNat) ws → Room s 2 →
      Appends (exec (.writeCrc n) s) s
        [tag s.cfg ((crc16 (ws.map untag)).extractLsb' 0 8), tag s.cfg ((crc16 (ws.map untag)).extractLsb' 8 8)])
    ∧ (s.cursor.toNat < n.toNat ∨ s.cfg.capacity < s.cursor.toNat + 2 →
      exec (.writeCrc n) s = .fault .bufferOverrun)
    ∧ (n.toNat ≤ s.cursor.toNat → s.cursor.toNat + 2 ≤ s.cfg.capacity →
      Unwritten s.mem (s.cursor.toNat - n.toNat) n.toNat → exec (.writeCrc n) s = .fault .uninitialisedRead)

/-- `READ_CRC` reads the pair in the order `WRITE_CRC` wrote it, so stepping back and reading returns the CRC just computed
(42_crc R153). -/
def Obligations.ReadCrcReturnsWhatWriteCrcWrote : Prop :=
  opcode .readCrc = some 0x39#8
  ∧ (∀ s : State, ReadsWords .readCrc s 2 (fun ws => .unsigned (joined ws.reverse)))
  ∧ ∀ (s : State) (n : BitVec 16) (ws : List Word), s.cfg.parametersLegal = true → n.toNat ≤ s.cursor.toNat →
    ws.length = n.toNat → Holds s.mem (s.cursor.toNat - n.toNat) ws → Room s 2 →
    ∃ t, execAll [.writeCrc n, .incIndex 0xFFFE#16, .readCrc] s = .next t
      ∧ t.out = .result (.unsigned (crc16 (ws.map untag)).toNat)

/-- The bit-serial generator computes `crc16`; the empty list gives 0xFFFF; a message followed by its CRC, low byte first,
has CRC 0 (42_crc R151). -/
def Obligations.BitSerialCrcAgreesAndResidueIsZero : Prop :=
  (∀ bs : List Byte, crcSerial bs = crc16 bs)
  ∧ crc16 [] = 0xFFFF#16
  ∧ ∀ bs : List Byte, crc16 (bs ++ [(crc16 bs).extractLsb' 0 8, (crc16 bs).extractLsb' 8 8]) = 0#16

/-- The known answers of 42_crc R156. -/
def Obligations.CrcKnownAnswersHold : Prop :=
  crc16 [0x01#8, 0x03#8, 0x00#8, 0x00#8, 0x00#8, 0x01#8] = 0x0A84#16
  ∧ crc16 [0x00#8] = 0x40BF#16
  ∧ crc16 [0xFF#8] = 0x00FF#16
  ∧ crc16 [0x31#8, 0x32#8, 0x33#8, 0x34#8, 0x35#8, 0x36#8, 0x37#8, 0x38#8, 0x39#8] = 0x4B37#16

/-! ## Control words -/

/-- The four literal writers store their whole literal (43_control_words R160, R161, R164, R165). -/
def Obligations.FixedLiteralWritersStoreTheLiteral : Prop :=
  ∀ s : State,
    Writes .writeEof s [s.cfg.eofWord] ∧ Writes .writeTimestamp s [s.cfg.timestampWord]
    ∧ Writes .writeSwtrigger s [s.cfg.swtrigWord] ∧ Writes .writeIrqtrigger s [s.cfg.irqtrigWord]
    ∧ opcode .writeEof = some 0x20#8 ∧ opcode .writeTimestamp = some 0x21#8
    ∧ opcode .writeSwtrigger = some 0x24#8 ∧ opcode .writeIrqtrigger = some 0x25#8

/-- `WRITE_DELAY` and `WRITE_WAITRX` store the word of their duration in range and are turned away out of range
(43_control_words R162, R163, R166). -/
def Obligations.DurationWritersStoreTheirWord : Prop :=
  ∀ (s : State) (T : BitVec 32),
    opcode (.writeDelay T) = some 0x22#8 ∧ opcode (.writeWaitrx T) = some 0x23#8
    ∧ (T.toNat < 4096 →
      Writes (.writeDelay T) s [0x4000#16 ||| BitVec.ofNat 16 T.toNat]
      ∧ Writes (.writeWaitrx T) s [0x6000#16 ||| BitVec.ofNat 16 T.toNat])
    ∧ (4096 ≤ T.toNat → T.toNat ≤ 4094999 →
      Writes (.writeDelay T) s [0x5000#16 ||| BitVec.ofNat 16 (T.toNat / 1000 + 1)]
      ∧ Writes (.writeWaitrx T) s [0x9000#16 ||| BitVec.ofNat 16 (T.toNat / 1000 + 1)])
    ∧ (4094999 < T.toNat →
      TurnedAway (exec (.writeDelay T) s) s .operandRange ∧ TurnedAway (exec (.writeWaitrx T) s) s .operandRange)

/-! ## Frames -/

/-- The two generic frames are the `p + 6` words of 30_encoding R90 with a wait or a delay tail (45_frame_factory R203,
R204). -/
def Obligations.GenericFramesAreWrittenWhole : Prop :=
  ∀ (s : State) (a f : Byte) (d : List Byte) (T : BitVec 32),
    opcode (.frameUnicast a f d T) = some 0x40#8 ∧ opcode (.frameBroadcast a f d T) = some 0x41#8
    ∧ (s.cfg.parametersLegal = true → d.length + 2 ≤ 65535 → T.toNat ≤ 4094999 →
      Writes (.frameUnicast a f d T) s (frameImage s.cfg a f d (waitWord T))
      ∧ Writes (.frameBroadcast a f d T) s (frameImage s.cfg a f d (delayWord T)))

/-- A generic frame whose duration is out of range is turned away with `OperandRange`; one whose payload is too long is
refused, which is the model's choice (45_frame_factory R203, 60_exceptions R302, log 15). -/
def Obligations.GenericFramesOutsideTheirDomainAreTurnedAway : Prop :=
  ∀ (s : State) (a f : Byte) (d : List Byte) (T : BitVec 32),
    (65535 < d.length + 2 →
      TurnedAway (exec (.frameUnicast a f d T) s) s .refused ∧ TurnedAway (exec (.frameBroadcast a f d T) s) s .refused)
    ∧ (d.length + 2 ≤ 65535 → 4094999 < T.toNat →
      TurnedAway (exec (.frameUnicast a f d T) s) s .operandRange
      ∧ TurnedAway (exec (.frameBroadcast a f d T) s) s .operandRange)

/-- `FRAME_NOP n` stores `n` copies of `NOP_WORD` and touches no expected-response entry (45_frame_factory R206). -/
def Obligations.FrameNopStoresCopiesOfNopWord : Prop :=
  ∀ (s : State) (n : BitVec 16),
    opcode (.frameNop n) = some 0x42#8 ∧ Writes (.frameNop n) s (List.replicate n.toNat s.cfg.nopWord)

/-- `FRAME_CMD` writes the frame of its table entry, each argument with the type of its field, and the entry's tail from
`TIMEOUT` (45_frame_factory R208, R209). The bytes of a value are those its typed writer stores, the value truncated to the
type's width (41_data_writers R131, 70_reset_and_hazards R354). In a legal instance the tail is a delay for the three
broadcast commands and a wait for every other, and `NOP` has no entry (30_encoding R98). The last clause rests on the
model's choice of what a legal command table is (DESIGN CHOICE, log 14): that a broadcast entry has a counter field, and only
one, no rule says; that the counter is one byte is 46_roundrobin R233. -/
def Obligations.TableFrameIsWrittenFromItsEntry : Prop :=
  (∀ z : Int,
    typedBytes .u8 z = digits 1 z ∧ typedBytes .i8 z = digits 1 z ∧ typedBytes .i16 z = digits 2 z
    ∧ typedBytes .u16 z = digits 2 z ∧ typedBytes .i24 z = digits 3 z ∧ typedBytes .i32 z = digits 4 z
    ∧ typedBytes .u32 z = digits 4 z ∧ typedBytes .sgl z = digits 4 z ∧ typedBytes .dbl z = digits 8 z)
  ∧ (∀ (s : State) (t : FieldType) (z : Int), Writes (writerOf t z) s ((typedBytes t z).map (tag s.cfg)))
  ∧ ∀ (s : State) (k : CmdType) (a : Byte) (args : List Int) (e : CmdEntry) (T : BitVec 32),
    opcode (.frameCmd k a args) = some 0x43#8
    ∧ (s.cfg.parametersLegal = true → s.cfg.entry k = some e → s.cfg.timeoutOf k = some T → T.toNat ≤ 4094999 →
      args.length = (fieldTypes e).length →
      (argumentBytes e args).length = payloadLength e.payload
      ∧ Writes (.frameCmd k a args) s
          (frameImage s.cfg a e.function (argumentBytes e args)
            (match e.tail with
             | .unicast => waitWord T
             | .broadcast => delayWord T)))
    ∧ (s.cfg.legal = true → s.cfg.entry k = some e →
      k ≠ .nop
      ∧ (e.tail = .broadcast ↔ k = .broadcastStepMotor ∨ k = .broadcastForceDemand ∨ k = .broadcastFreezeSensor)
      ∧ (e.tail = .broadcast →
        ∃ (pre post : List PayloadField) (f : PayloadField), e.payload = pre ++ f :: post ∧ f.name = .counter
          ∧ f.count = 1 ∧ (∀ b : Byte, typedBytes f.type b.toNat = [b]) ∧ ∀ g ∈ pre ++ post, g.name ≠ .counter))

/-- `FRAME_CMD` is turned away when a table has no entry, and with `OperandRange` when the time-out is out of range
(45_frame_factory R208, 60_exceptions R302). That `NOP`, a missing `TIMEOUT` entry and arguments that are not one per field
are refused is the model's choice, log 15. -/
def Obligations.TableFrameOutsideItsDomainIsTurnedAway : Prop :=
  ∀ (s : State) (k : CmdType) (a : Byte) (args : List Int),
    (s.cfg.entry k = none ∨ s.cfg.timeoutOf k = none → TurnedAway (exec (.frameCmd k a args) s) s .refused)
    ∧ ∀ (e : CmdEntry) (T : BitVec 32), s.cfg.entry k = some e → s.cfg.timeoutOf k = some T →
      (args.length ≠ (fieldTypes e).length → TurnedAway (exec (.frameCmd k a args) s) s .refused)
      ∧ (args.length = (fieldTypes e).length → 4094999 < T.toNat →
        TurnedAway (exec (.frameCmd k a args) s) s .operandRange)

/-- A placeholder of `plen(cmd) + 6` words completes wherever the real frame does, moves the cursor as far, and differs from
it in no word outside the frame (45_frame_factory R207). -/
def Obligations.PlaceholderHasTheLengthOfItsFrame : Prop :=
  ∀ (s t : State) (k : CmdType) (a : Byte) (args : List Int), exec (.frameCmd k a args) s = .next t → t.out = .done →
    ∃ u, exec (.frameNop (BitVec.ofNat 16 (frameWords s.cfg k))) s = .next u ∧ u.out = .done ∧ u.cursor = t.cursor
      ∧ ∀ x, x < s.cursor.toNat ∨ s.cursor.toNat + frameWords s.cfg k ≤ x → u.mem.read x = t.mem.read x

/-! ## Counters -/

/-- `RR_INC` (46_roundrobin R230) and its `ZeroCount` (R231). -/
def Obligations.RoundRobinIncrement : Prop :=
  ∀ (s : State) (index count : Nat),
    opcode (.rrInc index count) = some 0x50#8
    ∧ (0 < count →
      exec (.rrInc index count) s = .next { s with out := .result (.unsigned ((index + 1) % count)) })
    ∧ (count = 0 → exec (.rrInc index count) s = .fault .zeroCount)

/-- `BCAST_INC` (46_roundrobin R232). -/
def Obligations.BroadcastCounterIncrement : Prop :=
  ∀ (s : State) (current : Byte),
    opcode (.bcastInc current) = some 0x51#8
    ∧ (s.cfg.parametersLegal = true →
      exec (.bcastInc current) s
        = .next { s with out := .result (.unsigned ((current.toNat + 1) % s.cfg.bcastMod)) })

/-- `LVDT_STEP` for an operand in 0 .. 4 (46_roundrobin R234). -/
def Obligations.LvdtStepCountsDown : Prop :=
  ∀ (s : State) (c : Byte),
    opcode (.lvdtStep c) = some 0x52#8
    ∧ (c.toNat ≤ 4 →
      exec (.lvdtStep c) s = .next { s with out := .result (.unsigned (if c.toNat = 0 then 4 else c.toNat - 1)) })

/-- Over as many completed `UPDATE`s as a subnet has enabled force actuators, the Disabled bits being constant, every one of
them is the subnet's round-robin target exactly once, whatever the inputs and the cursor (46_roundrobin R236, R237); the
increment alone runs through all of `0 .. count-1` (R230). -/
def Obligations.RoundRobinIsFair : Prop :=
  (∀ count start : Nat, start < count →
    ((List.range count).map (fun k => (fun x => rrNext x count)^[k + 1] start)).Perm (List.range count))
  ∧ ∀ (s : State) (T : Topology) (i : Subnet) (ts : List State),
    s.topology = some T → T[i].fa.length ≤ 255 → s.sub[i].pollOffset.isSome = true →
    Cycles s ts → ts.length = (s.enabled T .fa i).length →
    (∀ t ∈ ts, t.disabled = s.disabled)
    ∧ (ts.map (fun t => t.sub[i].pollData)).Perm ((s.enabled T .fa i).map (fun d => some d.dataIndex))

/-- Of five consecutive countdown values exactly one is 0, and the countdown returns after five steps (46_roundrobin
R235). -/
def Obligations.LvdtCountdownHasPeriodFive : Prop :=
  ∀ c : Nat, c ≤ 4 → lvdtNext^[5] c = c ∧ ((List.range 5).map (fun k => lvdtNext^[k] c)).count 0 = 1

/-! ## Subnet blocks -/

/-- `OPEN_SUBNET` (47_buslist R250). -/
def Obligations.OpenSubnetWritesTheBlockHead : Prop :=
  ∀ (s : State) (i : Subnet) (v : Byte),
    opcode (.openSubnet v) = some 0x53#8
    ∧ (v.toNat = i.val → s.openBlock = none → Room s 3 →
      ∃ m, Stores s.mem m s.cursor.toNat [s.cfg.subnetCode[i], 0#16, s.cfg.swtrigWord]
        ∧ exec (.openSubnet v) s
          = .next { s with
              mem := m, cursor := BitVec.ofNat 16 (s.cursor.toNat + 3),
              openBlock := some { subnet := i, lenIndex := BitVec.ofNat 16 (s.cursor.toNat + 1) }, out := .done })
    ∧ (v.toNat = i.val → s.openBlock = none → s.cfg.capacity ≤ 65535 → s.cfg.capacity < s.cursor.toNat + 3 →
      exec (.openSubnet v) s = .fault .bufferOverrun)
    ∧ (s.openBlock.isSome = true ∨ 4 < v.toNat → TurnedAway (exec (.openSubnet v) s) s .refused)

/-- `CLOSE_SUBNET` (47_buslist R251). Where `cursor - lenIndex - 1` is negative the word at `lenIndex` is a free value, the
model's choice, log 11. -/
def Obligations.CloseSubnetWritesTheBlockLength : Prop :=
  ∀ s : State,
    opcode .closeSubnet = some 0x54#8
    ∧ (∀ b : OpenBlock, s.openBlock = some b → Room s 1 → b.lenIndex.toNat < s.cfg.capacity →
      ∃ (m : Memory) (blockLen : Word) (n : Nat),
        (b.lenIndex.toNat ≤ s.cursor.toNat → blockLen.toNat = s.cursor.toNat - b.lenIndex.toNat)
        ∧ (∀ a, m.read a =
            if a = b.lenIndex.toNat then some blockLen
            else if a = s.cursor.toNat then some s.cfg.irqtrigWord else s.mem.read a)
        ∧ exec .closeSubnet s
          = .next { s with
              mem := m, cursor := BitVec.ofNat 16 (s.cursor.toNat + 1), openBlock := none, freeCount := n,
              out := .done })
    ∧ (s.openBlock.isSome = true → s.cfg.capacity ≤ s.cursor.toNat → exec .closeSubnet s = .fault .bufferOverrun)
    ∧ (s.openBlock = none → TurnedAway (exec .closeSubnet s) s .refused)

/-- Opening and closing a subnet with nothing between writes the four words of an empty block (30_encoding R91). -/
def Obligations.EmptyBlockIsFourWords : Prop :=
  ∀ (s : State) (i : Subnet), s.openBlock = none → Room s 4 →
    ∃ t, execAll [.openSubnet (BitVec.ofNat 8 i.val), .closeSubnet] s = .next t
      ∧ Stores s.mem t.mem s.cursor.toNat [s.cfg.subnetCode[i], 2#16, s.cfg.swtrigWord, s.cfg.irqtrigWord]
      ∧ t.cursor.toNat = s.cursor.toNat + 4 ∧ t.openBlock = none

/-! ## Configuration -/

/-- `LOAD_TOPOLOGY` accepts exactly the valid lists: containers per subnet and class in the order of the list with their
address lookup, each device's own Disabled bit; a rejected load leaves no topology (47_buslist R255). -/
def Obligations.LoadTopologyAcceptsExactlyValidLists : Prop :=
  ∀ (s : State) (t : List ILCMap),
    opcode (.loadTopology t) = some 0x60#8
    ∧ (TopologyOk s.cfg t →
      ∃ (T : Topology) (D : Banks Bool),
        (∀ (i : Subnet) (k : DeviceClass), T[i].devices k = recordsOn t i k)
        ∧ (∀ d ∈ t, ∀ i : Subnet, d.subnet.toNat = i.val → T[i].lookup d.address = some d)
        ∧ (∀ d ∈ t, ∀ k, d.type = some k → (D.bank k)[d.dataIndex]? = some d.disabled)
        ∧ exec (.loadTopology t) s
          = .next { s with
              topology := some T, disabled := D, cfgError := false, phase := .configured,
              out := .result (.bit true) })
    ∧ (¬ TopologyOk s.cfg t →
      exec (.loadTopology t) s
        = .next { s with
            topology := none, disabled := { fa := [], hp := [], hm := [] }, cfgError := true,
            phase := .unconfigured, out := .result (.bit false) })

/-- `SET_DISABLED` writes the one bit it names, and is refused when there is no such device (47_buslist R256). -/
def Obligations.SetDisabledWritesOneBit : Prop :=
  ∀ (s : State) (T : Topology) (k : DeviceClass) (i : Nat) (b : Bool),
    opcode (.setDisabled k i b) = some 0x61#8
    ∧ (s.phase ≠ .unconfigured → s.topology = some T → i < (s.disabled.bank k).length →
      (∃ n : Subnet, ∃ d ∈ T[n].devices k, d.dataIndex = i) →
      ∃ D : Banks Bool,
        (∀ (l : DeviceClass) (j : Nat),
          (D.bank l)[j]? = if l = k ∧ j = i then some b else (s.disabled.bank l)[j]?)
        ∧ exec (.setDisabled k i b) s = .next { s with disabled := D, out := .done })
    ∧ (s.topology = some T → (¬ ∃ n : Subnet, ∃ d ∈ T[n].devices k, d.dataIndex = i) →
      TurnedAway (exec (.setDisabled k i b) s) s .refused)

/-- `GET_EXPECTED` returns the entry, and an index at or above the bank size is refused (47_buslist R281). -/
def Obligations.GetExpectedReturnsTheEntry : Prop :=
  ∀ (s : State) (k : DeviceClass) (i : Nat),
    opcode (.getExpected k i) = some 0x64#8
    ∧ (∀ n : BitVec 3, s.phase ≠ .unconfigured → i < s.cfg.bankSize k → (s.exp.bank k)[i]? = some n →
      exec (.getExpected k i) s = .next { s with out := .result (.unsigned n.toNat) })
    ∧ (s.cfg.bankSize k ≤ i → TurnedAway (exec (.getExpected k i) s) s .refused)

/-! ## BUILD -/

/-- `BUILD` completes whenever its preconditions hold and the schedule fits, and it writes exactly the schedule: five blocks
from index 0, the recorded offsets, the frozen length; every word beyond stays (47_buslist R260 to R267, 70_reset_and_hazards
R340). The force gather reads an absent setpoint as a free value, the model's choice, log 10. The second clause says what the
broadcast frames of these images carry: counter, slew byte, and the setpoints in the slots of their addresses, or the step
counts (45_frame_factory R210, 47_buslist R258, R264). -/
def Obligations.BuildWritesTheWholeSchedule : Prop :=
  (∀ (s : State) (T : Topology) (v : Byte) (x : Variant) (inp : Inputs), BuildReady s T x inp → variantOf v = some x →
    scheduleWords s T x ≤ s.cfg.capacity →
    (scheduleImage T (s.cfg.profiles.profile x) inp s).length = scheduleWords s T x
    ∧ ∃ (m : Memory) (exp base : Banks (BitVec 3)) (n : Nat),
      Stores s.mem m 0 (scheduleImage T (s.cfg.profiles.profile x) inp s)
      ∧ exec (.build v inp.primary inp.secondary inp.slew inp.steps) s
        = .next { s with
            mem := m, cursor := BitVec.ofNat 16 (scheduleWords s T x),
            length := BitVec.ofNat 16 (scheduleWords s T x), phase := .built, variant := x, lvdtClock := 0,
            sub := Vector.ofFn (builtRegs T (s.cfg.profiles.profile x) inp s), exp := exp, base := base,
            freeCount := n, out := .done })
  ∧ ∀ (c : Config) (P : Profile) (i : Subnet) (n : Nat) (b : BitVec 8) (inp : Inputs) (fas : List ILCMap),
    (GatherDefined inp fas → CommandReady c .broadcastForceDemand →
      Carries c .broadcastForceDemand 248#8
        (scheduledImage c .broadcastForceDemand addrBcastFA (forceArgs n i b inp fas)) b inp fas)
    ∧ (P.hpBroadcast = .stepMotor → inp.steps.length = c.nHP → CommandReady c .broadcastStepMotor →
      Carries c .broadcastStepMotor 249#8 (hpBroadcastImage c P b inp) b inp [])
    ∧ (P.hpBroadcast = .freeze → CommandReady c .broadcastFreezeSensor →
      Carries c .broadcastFreezeSensor 249#8 (hpBroadcastImage c P b inp) b inp [])
    ∧ (P.hpBroadcast = .none → hpBroadcastImage c P b inp = [])

/-- A schedule that does not fit overruns the buffer (70_reset_and_hazards R340). -/
def Obligations.BuildThatDoesNotFitOverruns : Prop :=
  ∀ (s : State) (T : Topology) (v : Byte) (x : Variant) (inp : Inputs), BuildReady s T x inp → variantOf v = some x →
    s.cfg.capacity < scheduleWords s T x →
    exec (.build v inp.primary inp.secondary inp.slew inp.steps) s = .fault .bufferOverrun

/-- `BUILD` is refused for a variant above 3, inside an open block, or when a command it schedules is absent from
`CMD_TABLE`; with a `TIMEOUT` it will use above 4,094,999 it is turned away with `OperandRange` before the first word
(47_buslist R250, R260; 60_exceptions R302, R307). That inputs of another shape and a missing `TIMEOUT` are `Refused`, and
that this comes first, is the model's choice, log 13. -/
def Obligations.BuildOutsideItsDomainIsTurnedAway : Prop :=
  ∀ (s : State) (v : Byte) (inp : Inputs),
    (3 < v.toNat ∨ s.openBlock.isSome = true ∨ ¬ Shaped s inp →
      TurnedAway (exec (.build v inp.primary inp.secondary inp.slew inp.steps) s) s .refused)
    ∧ ∀ (T : Topology) (x : Variant), BuildAdmitted s T inp → variantOf v = some x →
      ((∃ k ∈ buildCommands T (s.cfg.profiles.profile x) s, CommandMissing s.cfg k) →
        TurnedAway (exec (.build v inp.primary inp.secondary inp.slew inp.steps) s) s .refused)
      ∧ ((∀ k ∈ buildCommands T (s.cfg.profiles.profile x) s, commandKnown s.cfg k = true) →
        (∃ k ∈ buildCommands T (s.cfg.profiles.profile x) s, TimeoutTooLong s.cfg k) →
        TurnedAway (exec (.build v inp.primary inp.secondary inp.slew inp.steps) s) s .operandRange)

/-- After `BUILD` the base counts are 1, 2, 3 for the enabled devices whose frames the profile has, and the table is their
account with every LVDT slot real (47_buslist R263 to R266, R280). -/
def Obligations.BuildFillsTheExpectedResponseTable : Prop :=
  ∀ (s : State) (T : Topology) (v : Byte) (x : Variant) (inp : Inputs), BuildReady s T x inp → variantOf v = some x →
    scheduleWords s T x ≤ s.cfg.capacity → topologySized s.cfg T = true → DistinctIndices T →
    ∃ t, exec (.build v inp.primary inp.secondary inp.slew inp.steps) s = .next t ∧ t.out = .done
      ∧ BaseCounts T t .fa (s.cfg.profiles.profile x).faStatus 1
      ∧ BaseCounts T t .hp (s.cfg.profiles.profile x).hpStatus 2
      ∧ BaseCounts T t .hm (s.cfg.profiles.profile x).hmStatus 3
      ∧ Accounts true t

/-- Every `BUILD` that completes establishes the layout that in-place patching relies on (20_memory R67, 47_buslist R267,
R279). -/
def Obligations.BuildEstablishesTheLayout : Prop :=
  ∀ (s t : State) (v : Byte) (inp : Inputs), s.cfg.parametersLegal = true →
    exec (.build v inp.primary inp.secondary inp.slew inp.steps) s = .next t → t.out = .done → Layout t

/-! ## UPDATE -/

/-- `UPDATE` completes whenever a schedule is built and every polled subnet has an enabled force actuator, and it does exactly
its patches: counter first, four rewrites a subnet in order, countdown last; the recorded offsets, the length and the base
counts stay (47_buslist R270 to R278). Absent setpoints are free values, the model's choice, log 10. -/
def Obligations.UpdateAppliesExactlyItsPatches : Prop :=
  ∀ (s : State) (T : Topology) (inp : Inputs), UpdateReady s T inp → PollsEnabled s T →
    ∃ (m : Memory) (exp : Banks (BitVec 3)) (n : Nat),
      (∀ a, m.read a = (applyPatches s.mem (patches T inp s)).read a)
      ∧ exec (.update inp.primary inp.secondary inp.slew inp.steps) s
        = .next { s with
            mem := m, cursor := cursorAfter s (patches T inp s),
            bcast := BitVec.ofNat 8 ((s.bcast.toNat + 1) % s.cfg.bcastMod),
            lvdtClock := if s.lvdtClock = 0 then 4 else s.lvdtClock - 1, sub := Vector.ofFn (updatedRegs T s),
            exp := exp, freeCount := n, out := .done }

/-- `UPDATE` is turned away with `OperandRange`, before it writes anything, when a `TIMEOUT` it will use is above 4,094,999,
and is refused when a command it will compose, or the one its placeholders stand for, is absent from `CMD_TABLE`
(60_exceptions R302, R307). That inputs of another shape and a missing `TIMEOUT` are `Refused`, and that this comes first, is
the model's choice, log 13. -/
def Obligations.UpdateOutsideItsDomainIsTurnedAway : Prop :=
  ∀ (s : State) (inp : Inputs),
    (¬ Shaped s inp → TurnedAway (exec (.update inp.primary inp.secondary inp.slew inp.steps) s) s .refused)
    ∧ ∀ T : Topology, UpdateAdmitted s T inp →
      ((∃ k ∈ updateCommands s, CommandMissing s.cfg k) ∨ (HasSlots s ∧ s.cfg.entry .reportLvdt = none) →
        TurnedAway (exec (.update inp.primary inp.secondary inp.slew inp.steps) s) s .refused)
      ∧ ((∀ k ∈ updateCommands s, commandKnown s.cfg k = true) → (HasSlots s → s.cfg.entry .reportLvdt ≠ none) →
        (∃ k ∈ updateCommands s, TimeoutTooLong s.cfg k) →
        TurnedAway (exec (.update inp.primary inp.secondary inp.slew inp.steps) s) s .operandRange)

/-- When every force actuator of a subnet with a round-robin frame has been disabled, `UPDATE` is a `ZeroCount` (47_buslist
R275). -/
def Obligations.UpdateWithoutEnabledActuatorIsZeroCount : Prop :=
  ∀ (s : State) (T : Topology) (inp : Inputs), UpdateReady s T inp → ¬ PollsEnabled s T →
    exec (.update inp.primary inp.secondary inp.slew inp.steps) s = .fault .zeroCount

/-- The frame of `UPDATE`: no word outside the rewritten frames changes, nor the length, the offsets, the variant, the base
counts, the latched monitors, the phase, the topology or the Disabled bits (47_buslist R270, R279). -/
def Obligations.UpdateTouchesOnlyTheRewrittenFrames : Prop :=
  ∀ (s t : State) (inp : Inputs), exec (.update inp.primary inp.secondary inp.slew inp.steps) s = .next t →
    (∀ a, (∀ p ∈ rewriteSpans s, a < p.1 ∨ p.2 ≤ a) → t.mem.read a = s.mem.read a)
    ∧ (∀ i : Subnet, t.sub[i].fdOffset = s.sub[i].fdOffset ∧ t.sub[i].stepOffset = s.sub[i].stepOffset
        ∧ t.sub[i].pollOffset = s.sub[i].pollOffset ∧ t.sub[i].lvdtOffset = s.sub[i].lvdtOffset
        ∧ t.sub[i].hmSched = s.sub[i].hmSched)
    ∧ t.length = s.length ∧ t.variant = s.variant ∧ t.base = s.base ∧ t.phase = s.phase ∧ t.topology = s.topology
    ∧ t.disabled = s.disabled ∧ t.openBlock = s.openBlock ∧ t.cfgError = s.cfgError

/-- Offset stability: an `UPDATE` keeps the layout, so any number of them does (47_buslist R279, 20_memory R67, R74). -/
def Obligations.UpdateKeepsTheLayout : Prop :=
  ∀ (s t : State) (inp : Inputs), Layout s →
    exec (.update inp.primary inp.secondary inp.slew inp.steps) s = .next t → Layout t

/-- Every `UPDATE` that completes leaves the table the account of the frames now in the buffer: the previous target back at its
base count, the new one at base plus one, the slots by the countdown on entry (47_buslist R274, R277, R280). -/
def Obligations.UpdateKeepsTheExpectedResponseAccount : Prop :=
  ∀ (s t : State) (T : Topology) (inp : Inputs) (real : Bool), Inv s → s.topology = some T → DistinctIndices T →
    PollKnown T s → Accounts real s →
    exec (.update inp.primary inp.secondary inp.slew inp.steps) s = .next t → t.out = .done →
    Accounts (decide (s.lvdtClock = 0)) t ∧ PollKnown T t

/-! ## The whole machine -/

/-- Which phase admits which operation (60_exceptions R311): unconfigured, the four schedule operations are refused;
configured, `UPDATE` is. -/
def Obligations.PhasesRefuseWhatTheyDoNotAdmit : Prop :=
  ∀ (s : State) (v : Byte) (inp : Inputs) (k : DeviceClass) (i : Nat) (b : Bool),
    (s.phase = .unconfigured →
      TurnedAway (exec (.setDisabled k i b) s) s .refused ∧ TurnedAway (exec (.getExpected k i) s) s .refused
      ∧ TurnedAway (exec (.build v inp.primary inp.secondary inp.slew inp.steps) s) s .refused)
    ∧ (s.phase ≠ .built →
      TurnedAway (exec (.update inp.primary inp.secondary inp.slew inp.steps) s) s .refused)

/-- Every register and the buffer are written by the operations their rules name and by no other (10_state R22 to R34, R38,
R39; 60_exceptions R312). -/
def Obligations.OnlyTheNamedOperationsWriteARegister : Prop :=
  ∀ (i : Instr) (s t : State), exec i s = .next t →
    t.cfg = s.cfg ∧ t.requests = s.requests
    ∧ (writesWords i = false → t.mem = s.mem)
    ∧ (writesCursor i = false → t.cursor = s.cursor)
    ∧ ((∀ n, i ≠ .setLength n) → (∀ v p q b h, i ≠ .build v p q b h) → t.length = s.length)
    ∧ ((∀ p q b h, i ≠ .update p q b h) → t.bcast = s.bcast)
    ∧ ((∀ v p q b h, i ≠ .build v p q b h) → t.variant = s.variant ∧ t.base = s.base)
    ∧ ((∀ v p q b h, i ≠ .build v p q b h) → (∀ p q b h, i ≠ .update p q b h) →
      t.sub = s.sub ∧ t.lvdtClock = s.lvdtClock ∧ t.exp = s.exp)
    ∧ ((∀ l, i ≠ .loadTopology l) → (∀ v p q b h, i ≠ .build v p q b h) → t.phase = s.phase)
    ∧ ((∀ l, i ≠ .loadTopology l) → t.topology = s.topology ∧ t.cfgError = s.cfgError)
    ∧ ((∀ l, i ≠ .loadTopology l) → (∀ k j b, i ≠ .setDisabled k j b) → t.disabled = s.disabled)
    ∧ ((∀ v, i ≠ .openSubnet v) → i ≠ .closeSubnet → t.openBlock = s.openBlock)

/-- After a refused operation every register and every word is exactly as before (60_exceptions R307): only the port's answer,
the model's own field (log 6), tells. -/
def Obligations.RefusedOperationChangesNothing : Prop :=
  ∀ (i : Instr) (s t : State) (e : PortEvent), exec i s = .next t → t.out = .turnedAway e →
    t = { s with out := .turnedAway e }

/-- A wire word leaves the whole state as it is: ILCFG produces wire words and does not execute them (30_encoding R92). That
the model lets one be presented at all, and answers so, is its own choice, log 7. -/
def Obligations.WireWordsChangeNothingInside : Prop :=
  ∀ (s : State) (b : Byte) (v : BitVec 12),
    exec (.wData b) s = .next s ∧ exec .wEof s = .next s ∧ exec .wTimestamp s = .next s
    ∧ exec (.wDelayUs v) s = .next s ∧ exec (.wDelayMs v) s = .next s ∧ exec (.wWaitrxUs v) s = .next s
    ∧ exec (.wWaitrxMs v) s = .next s ∧ exec .wIrqtrig s = .next s ∧ exec .wSwtrig s = .next s
    ∧ exec .wRxEof s = .next s

/-- The state after reset (70_reset_and_hazards R330). -/
def Obligations.ResetLeavesTheStateOfItsRule : Prop :=
  ∀ c : Config,
    (State.resetWith c).cfg = c
    ∧ (State.resetWith c).cursor = 0 ∧ (State.resetWith c).length = 0 ∧ (State.resetWith c).bcast = 0
    ∧ (State.resetWith c).lvdtClock = 0 ∧ (State.resetWith c).variant = .parked
    ∧ (State.resetWith c).phase = .unconfigured ∧ (State.resetWith c).cfgError = false
    ∧ (State.resetWith c).openBlock = none ∧ (State.resetWith c).topology = none
    ∧ (∀ i : Subnet, (State.resetWith c).sub[i]
        = { rr := 0, fdOffset := none, stepOffset := none, pollOffset := none, lvdtOffset := none, pollData := none,
            hmSched := [] })
    ∧ (∀ k : DeviceClass, (State.resetWith c).exp.bank k = List.replicate (c.bankSize k) 0
        ∧ (State.resetWith c).base.bank k = List.replicate (c.bankSize k) 0)
    ∧ ∀ a, (State.resetWith c).mem.read a = none

/-- The invariant holds after reset of every instance with a legal configuration; which command tables are legal is in part
the model's choice, log 14. -/
def Obligations.InvariantHoldsAfterReset : Prop :=
  (∀ c : Config, c.legal = true → Inv (State.resetWith c)) ∧ Inv State.reset

/-- Every step keeps the invariant: the buffer stays canonical and inside the capacity, every register in its range, the
phase in step with the topology, base and expected counts at most 1, 2, 3 and 2, 2, 4 (10_state R22 to R39). -/
def Obligations.EveryStepKeepsTheInvariant : Prop :=
  ∀ s t : State, Inv s → step s = .next t → Inv t

/-- The buffer window is `words[0 .. length-1]`, read whole (20_memory R72). -/
def Obligations.WindowIsTheValidRegion : Prop :=
  ∀ (s : State) (ws : List Word),
    s.window = .ok ws ↔ s.length.toNat ≤ s.cfg.capacity ∧ ws.length = s.length.toNat ∧ Holds s.mem 0 ws
end

