-- ==== Sys2Proof/Laws/Encoding.lean ====
section
/-! SUPPORT. For each kind of operand lane, that reading what was written gives it back and leaves the lanes after it. -/

namespace Sys2Proof

theorem takeByte_putByte (b : Byte) (bs : List Byte) : takeByte (putByte b ++ bs) = .ok (b, bs) := rfl

theorem take16_put16 (v : BitVec 16) (bs : List Byte) : take16 (put16 v ++ bs) = .ok (v, bs) := by
  have h : v.extractLsb' 8 8 ++ v.extractLsb' 0 8 = v := by
    apply BitVec.eq_of_getLsbD_eq
    intro i hi
    simp only [BitVec.getLsbD_append, BitVec.getLsbD_extractLsb']
    split
    · simp [*]
    · have : i - 8 < 8 := by omega
      simp [this, show 8 + (i - 8) = i by omega]
  show Except.ok (v.extractLsb' 8 8 ++ v.extractLsb' 0 8, bs) = _
  rw [h]

theorem take32_put32 (v : BitVec 32) (bs : List Byte) : take32 (put32 v ++ bs) = .ok (v, bs) := by
  have h : v.extractLsb' 16 16 ++ v.extractLsb' 0 16 = v := by
    apply BitVec.eq_of_getLsbD_eq
    intro i hi
    simp only [BitVec.getLsbD_append, BitVec.getLsbD_extractLsb']
    split
    · simp [*]
    · have : i - 16 < 16 := by omega
      simp [this, show 16 + (i - 16) = i by omega]
  unfold take32 put32
  simp only [List.append_assoc, take16_put16, bind, Except.bind]
  show Except.ok (v.extractLsb' 16 16 ++ v.extractLsb' 0 16, bs) = _
  rw [h]

theorem take64_put64 (v : BitVec 64) (bs : List Byte) : take64 (put64 v ++ bs) = .ok (v, bs) := by
  have h : v.extractLsb' 32 32 ++ v.extractLsb' 0 32 = v := by
    apply BitVec.eq_of_getLsbD_eq
    intro i hi
    simp only [BitVec.getLsbD_append, BitVec.getLsbD_extractLsb']
    split
    · simp [*]
    · have : i - 32 < 32 := by omega
      simp [this, show 32 + (i - 32) = i by omega]
  unfold take64 put64
  simp only [List.append_assoc, take32_put32, bind, Except.bind]
  show Except.ok (v.extractLsb' 32 32 ++ v.extractLsb' 0 32, bs) = _
  rw [h]

theorem takeNat_putNat {n : Nat} (h : natFits n = true) (bs : List Byte) : takeNat (putNat n ++ bs) = .ok (n, bs) := by
  have hn : n < 2 ^ 64 := by simpa [natFits] using h
  unfold takeNat putNat
  rw [take64_put64]
  show Except.ok ((BitVec.ofNat 64 n).toNat, bs) = _
  rw [BitVec.toNat_ofNat, Nat.mod_eq_of_lt hn]

theorem takeInt_putInt {z : Int} (h : intFits z = true) (bs : List Byte) : takeInt (putInt z ++ bs) = .ok (z, bs) := by
  have hz : -(2 ^ 63) ≤ z ∧ z < 2 ^ 63 := by simpa [intFits] using h
  unfold takeInt putInt
  rw [take64_put64]
  show Except.ok ((BitVec.ofInt 64 z).toInt, bs) = _
  rw [BitVec.toInt_ofInt, Int.bmod_eq_of_le (by omega) (by omega)]

theorem takeBit_putBit (b : Bool) (bs : List Byte) : takeBit (putBit b ++ bs) = .ok (b, bs) := by
  cases b <;> rfl

theorem takeClass_putClass (k : DeviceClass) (bs : List Byte) : takeClass (putClass k ++ bs) = .ok (k, bs) := by
  cases k <;> rfl

theorem takeCmd_putCmd (k : CmdType) (bs : List Byte) : takeCmd (putCmd k ++ bs) = .ok (k, bs) := by
  cases k <;> rfl

/-- The lane of a record's `Type` names the type it was written for. -/
theorem classOf_putType (t : Option DeviceClass) : ∃ b, putType t = [b] ∧ classOf b = t := by
  cases t with
  | none => exact ⟨_, rfl, rfl⟩
  | some k => cases k <;> exact ⟨_, rfl, rfl⟩

/-- A list of entries, each of which is read back, is read back. -/
theorem takeList_flatMap {α : Type} {p : Parse α} {put : α → List Byte} {fits : α → Bool}
    (hp : ∀ x bs, fits x = true → p (put x ++ bs) = .ok (x, bs)) (xs : List α) (bs : List Byte)
    (h : xs.all fits = true) : takeList p xs.length (xs.flatMap put ++ bs) = .ok (xs, bs) := by
  induction xs with
  | nil => rfl
  | cons x xs ih =>
    simp only [List.all_cons, Bool.and_eq_true] at h
    simp only [List.length_cons, List.flatMap_cons, List.append_assoc, takeList, hp x _ h.1]
    show (takeList p xs.length _ >>= _) = _
    rw [ih h.2]
    rfl

/-- A counted list is read back. -/
theorem takeCounted_putCounted {α : Type} {p : Parse α} {put : α → List Byte} {fits : α → Bool}
    (hp : ∀ x bs, fits x = true → p (put x ++ bs) = .ok (x, bs)) {xs : List α} (h : listFits fits xs = true)
    (bs : List Byte) : takeCounted p (putCounted put xs ++ bs) = .ok (xs, bs) := by
  simp only [listFits, Bool.and_eq_true, decide_eq_true_eq] at h
  unfold takeCounted putCounted
  rw [List.append_assoc, take16_put16]
  show takeList p (BitVec.ofNat 16 xs.length).toNat _ = _
  rw [BitVec.toNat_ofNat, Nat.mod_eq_of_lt h.1]
  exact takeList_flatMap hp xs bs h.2

/-- A device record is read back. -/
theorem takeMap_putMap {d : ILCMap} (h : d.fits = true) (bs : List Byte) : takeMap (putMap d ++ bs) = .ok (d, bs) := by
  obtain ⟨ty, subnet, address, actuatorId, dataIndex, x, y, secondary, disabled⟩ := d
  simp only [ILCMap.fits, Bool.and_eq_true] at h
  obtain ⟨⟨⟨⟨h1, h2⟩, h3⟩, h4⟩, h5⟩ := h
  obtain ⟨b, hb, hc⟩ := classOf_putType ty
  unfold takeMap putMap
  simp only [hb, List.append_assoc, List.cons_append, List.nil_append, putByte, takeByte, bind, Except.bind,
    takeInt_putInt h1, takeNat_putNat h2, takeInt_putInt h3, takeInt_putInt h4, takeInt_putInt h5, takeBit_putBit, hc]

end Sys2Proof
end

