-- ==== Sys2Proof/Laws/Memory.lean ====
section
/-! SUPPORT. The laws of the word buffer: reading after writing, and the canonical form. -/

namespace Sys2Proof.Machine

@[simp] theorem Memory.read_nil (a : Nat) : Memory.read [] a = none := rfl

theorem Memory.read_cons (k : Nat) (v : Word) (m : Memory) (a : Nat) :
    Memory.read ((k, v) :: m) a = if k = a then some v else Memory.read m a := rfl

/-- A write is read back at its index and nowhere else, whatever form the buffer has. -/
theorem Memory.read_write (m : Memory) (a : Nat) (w : Word) (b : Nat) :
    (m.write a w).read b = if b = a then some w else m.read b := by
  induction m with
  | nil => simp [Memory.write, Memory.read_cons, eq_comm]
  | cons p m ih =>
    obtain ⟨k, v⟩ := p
    simp only [Memory.write]
    split
    · simp only [Memory.read_cons, eq_comm]
    · split
      · subst_vars
        simp only [Memory.read_cons]
        split <;> simp_all [eq_comm]
      · rename_i hne
        simp only [Memory.read_cons, ih]
        by_cases hk : k = b
        · have hb : b ≠ a := fun h => hne (by rw [hk, h])
          simp [hk, hb]
        · simp [hk]

@[simp] theorem Memory.read_write_self (m : Memory) (a : Nat) (w : Word) : (m.write a w).read a = some w := by
  simp [Memory.read_write]

theorem Memory.read_write_of_ne (m : Memory) {a b : Nat} (w : Word) (h : b ≠ a) :
    (m.write a w).read b = m.read b := by
  simp [Memory.read_write, h]

@[simp] theorem Memory.writeAll_nil (m : Memory) (a : Nat) : m.writeAll a [] = m := rfl

@[simp] theorem Memory.writeAll_cons (m : Memory) (a : Nat) (w : Word) (ws : List Word) :
    m.writeAll a (w :: ws) = (m.write a w).writeAll (a + 1) ws := rfl

theorem Memory.writeAll_append (m : Memory) (a : Nat) (ws vs : List Word) :
    m.writeAll a (ws ++ vs) = (m.writeAll a ws).writeAll (a + ws.length) vs := by
  induction ws generalizing m a with
  | nil => simp
  | cons w ws ih => simp [ih, Nat.add_assoc, Nat.add_comm 1]

/-- A run of writes is read back inside the run, and leaves every other index alone. -/
theorem Memory.read_writeAll (m : Memory) (a : Nat) (ws : List Word) (b : Nat) :
    (m.writeAll a ws).read b = if a ≤ b ∧ b < a + ws.length then ws[b - a]? else m.read b := by
  induction ws generalizing m a with
  | nil =>
    simp only [Memory.writeAll_nil, List.length_nil]
    rw [if_neg (by omega)]
  | cons w ws ih =>
    rw [Memory.writeAll_cons, ih, Memory.read_write]
    simp only [List.length_cons]
    by_cases h1 : b = a
    · subst h1
      rw [if_neg (by omega), if_pos rfl, if_pos (by omega)]
      simp
    · by_cases h2 : a + 1 ≤ b ∧ b < a + 1 + ws.length
      · have h3 : a ≤ b ∧ b < a + (ws.length + 1) := by omega
        have h4 : b - a = (b - (a + 1)) + 1 := by omega
        rw [if_pos h2, if_pos h3, h4, List.getElem?_cons_succ]
      · have h3 : ¬(a ≤ b ∧ b < a + (ws.length + 1)) := by omega
        rw [if_neg h2, if_neg h3, if_neg h1]

theorem Memory.read_writeAll_of_not_mem (m : Memory) {a b : Nat} {ws : List Word}
    (h : ¬(a ≤ b ∧ b < a + ws.length)) : (m.writeAll a ws).read b = m.read b := by
  rw [Memory.read_writeAll, if_neg h]

@[simp] theorem Memory.readAll_zero (m : Memory) (a : Nat) : m.readAll a 0 = some [] := rfl

theorem Memory.readAll_succ (m : Memory) (a n : Nat) :
    m.readAll a (n + 1) =
      match m.read a, m.readAll (a + 1) n with
      | some w, some ws => some (w :: ws)
      | _, _ => none := rfl

/-- Reading a run answers a list exactly when that list holds, entry by entry, what the indices hold. -/
theorem Memory.readAll_eq_some (m : Memory) (a n : Nat) (ws : List Word) :
    m.readAll a n = some ws ↔ ws.length = n ∧ ∀ k, k < n → m.read (a + k) = ws[k]? := by
  induction n generalizing a ws with
  | zero =>
    simp only [Memory.readAll_zero, Option.some.injEq]
    constructor
    · rintro rfl
      exact ⟨rfl, by intro k hk; omega⟩
    · rintro ⟨h, -⟩
      exact (List.length_eq_zero_iff.mp h).symm
  | succ n ih =>
    rw [Memory.readAll_succ]
    constructor
    · intro h
      split at h
      · rename_i w vs hw hvs
        obtain ⟨hl, hk⟩ := (ih (a + 1) vs).mp hvs
        cases h
        refine ⟨by simp [hl], ?_⟩
        intro k hk'
        cases k with
        | zero => simpa using hw
        | succ k =>
          have := hk k (by omega)
          simpa [Nat.add_assoc, Nat.add_comm 1 k] using this
      · cases h
    · rintro ⟨hl, hk⟩
      cases ws with
      | nil => simp at hl
      | cons w vs =>
        have h0 : m.read a = some w := by simpa using hk 0 (by omega)
        have hvs : m.readAll (a + 1) n = some vs := by
          refine (ih (a + 1) vs).mpr ⟨by simpa using hl, ?_⟩
          intro k hk'
          have := hk (k + 1) (by omega)
          simpa [Nat.add_assoc, Nat.add_comm 1 k] using this
        rw [h0, hvs]

/-- Reading a run answers nothing exactly when one of its indices was never written. -/
theorem Memory.readAll_eq_none (m : Memory) (a n : Nat) :
    m.readAll a n = none ↔ ∃ k, k < n ∧ m.read (a + k) = none := by
  induction n generalizing a with
  | zero => simp
  | succ n ih =>
    rw [Memory.readAll_succ]
    constructor
    · intro h
      cases hr : m.read a with
      | none => exact ⟨0, by omega, by simpa using hr⟩
      | some w =>
        cases hs : m.readAll (a + 1) n with
        | none =>
          obtain ⟨k, hk, hn⟩ := (ih (a + 1)).mp hs
          exact ⟨k + 1, by omega, by rw [← hn]; congr 1; omega⟩
        | some vs => simp [hr, hs] at h
    · rintro ⟨k, hk, hn⟩
      cases k with
      | zero =>
        have h0 : m.read a = none := by simpa using hn
        simp [h0]
      | succ k =>
        have hs : m.readAll (a + 1) n = none :=
          (ih (a + 1)).mpr ⟨k, by omega, by rw [← hn]; congr 1; omega⟩
        rw [hs]
        cases m.read a <;> rfl

/-- Reading back a run just written. -/
theorem Memory.readAll_writeAll (m : Memory) (a : Nat) (ws : List Word) :
    (m.writeAll a ws).readAll a ws.length = some ws := by
  rw [Memory.readAll_eq_some]
  refine ⟨rfl, fun k hk => ?_⟩
  have h : a ≤ a + k ∧ a + k < a + ws.length := by omega
  rw [Memory.read_writeAll, if_pos h]
  congr 1
  omega

/-- The canonical form as a statement about neighbours. -/
theorem Memory.wf_cons (p : Nat × Word) (m : Memory) :
    Memory.wf (p :: m) = true ↔ (∀ q ∈ m.head?, p.1 < q.1) ∧ Memory.wf m = true := by
  cases m with
  | nil => simp [Memory.wf]
  | cons q m => simp [Memory.wf]

theorem Memory.head_write (m : Memory) (a : Nat) (w : Word) :
    ∀ q ∈ (m.write a w).head?, q.1 = a ∨ ∃ r ∈ m.head?, q.1 = r.1 := by
  cases m with
  | nil => simp [Memory.write]
  | cons p m =>
    intro q hq
    simp only [Memory.write] at hq
    split at hq
    · simp at hq
      subst hq
      exact .inl rfl
    · split at hq
      · simp at hq
        subst hq
        exact .inl rfl
      · simp at hq
        subst hq
        exact .inr ⟨p, by simp, rfl⟩

/-- A write keeps the canonical form. -/
theorem Memory.wf_write (m : Memory) (a : Nat) (w : Word) (h : m.wf = true) : (m.write a w).wf = true := by
  induction m with
  | nil => rfl
  | cons p m ih =>
    obtain ⟨hh, ht⟩ := (Memory.wf_cons p m).mp h
    simp only [Memory.write]
    split
    · rename_i hlt
      exact (Memory.wf_cons _ _).mpr ⟨by simpa using hlt, h⟩
    · split
      · rename_i heq
        refine (Memory.wf_cons _ _).mpr ⟨?_, ht⟩
        intro q hq
        simpa [heq] using hh q hq
      · rename_i hnlt hne
        refine (Memory.wf_cons _ _).mpr ⟨?_, ih ht⟩
        intro q hq
        rcases Memory.head_write m a w q hq with h1 | ⟨r, hr, h1⟩
        · rw [h1]
          show p.1 < a
          omega
        · rw [h1]
          exact hh r hr

/-- A run of writes keeps the canonical form. -/
theorem Memory.wf_writeAll (m : Memory) (a : Nat) (ws : List Word) (h : m.wf = true) :
    (m.writeAll a ws).wf = true := by
  induction ws generalizing m a with
  | nil => exact h
  | cons w ws ih => exact ih _ _ (Memory.wf_write m a w h)

/-- The only new entry of a write is its own. -/
theorem Memory.mem_write {m : Memory} {a : Nat} {w : Word} {p : Nat × Word} (h : p ∈ m.write a w) :
    p = (a, w) ∨ p ∈ m := by
  induction m with
  | nil => simpa [Memory.write] using h
  | cons q m ih =>
    simp only [Memory.write] at h
    split at h
    · simpa using h
    · split at h
      · rcases List.mem_cons.mp h with h | h
        · exact .inl h
        · exact .inr (List.mem_cons_of_mem _ h)
      · rcases List.mem_cons.mp h with h | h
        · exact .inr (by simp [h])
        · rcases ih h with h | h
          · exact .inl h
          · exact .inr (List.mem_cons_of_mem _ h)

/-- Every entry of a run of writes is an old one or lies inside the run. -/
theorem Memory.mem_writeAll {m : Memory} {a : Nat} {ws : List Word} {p : Nat × Word}
    (h : p ∈ m.writeAll a ws) : (a ≤ p.1 ∧ p.1 < a + ws.length) ∨ p ∈ m := by
  induction ws generalizing m a with
  | nil => exact .inr h
  | cons w ws ih =>
    rcases ih (m := m.write a w) (a := a + 1) h with h | h
    · left
      simp only [List.length_cons]
      omega
    · rcases Memory.mem_write h with h | h
      · left
        subst h
        simp only [List.length_cons]
        omega
      · exact .inr h

end Sys2Proof.Machine
end

