-- ==== Sys2Proof/Laws/State.lean ====
section
/-! SUPPORT. One lemma per field per named update of the state, each true by unfolding the update once. -/

namespace Sys2Proof.Machine

/-- The state after the words `ws` have been stored at the cursor and the cursor has moved past them. -/
def State.placed (s : State) (ws : List Word) : State :=
  { s with mem := s.mem.writeAll s.cursor.toNat ws, cursor := BitVec.ofNat 16 (s.cursor.toNat + ws.length) }

@[simp] theorem State.placed_cfg (s : State) (ws : List Word) : (s.placed ws).cfg = s.cfg := rfl
@[simp] theorem State.placed_mem (s : State) (ws : List Word) :
    (s.placed ws).mem = s.mem.writeAll s.cursor.toNat ws := rfl
@[simp] theorem State.placed_cursor (s : State) (ws : List Word) :
    (s.placed ws).cursor = BitVec.ofNat 16 (s.cursor.toNat + ws.length) := rfl
@[simp] theorem State.placed_length (s : State) (ws : List Word) : (s.placed ws).length = s.length := rfl
@[simp] theorem State.placed_bcast (s : State) (ws : List Word) : (s.placed ws).bcast = s.bcast := rfl
@[simp] theorem State.placed_lvdtClock (s : State) (ws : List Word) : (s.placed ws).lvdtClock = s.lvdtClock := rfl
@[simp] theorem State.placed_sub (s : State) (ws : List Word) : (s.placed ws).sub = s.sub := rfl
@[simp] theorem State.placed_variant (s : State) (ws : List Word) : (s.placed ws).variant = s.variant := rfl
@[simp] theorem State.placed_phase (s : State) (ws : List Word) : (s.placed ws).phase = s.phase := rfl
@[simp] theorem State.placed_cfgError (s : State) (ws : List Word) : (s.placed ws).cfgError = s.cfgError := rfl
@[simp] theorem State.placed_openBlock (s : State) (ws : List Word) : (s.placed ws).openBlock = s.openBlock := rfl
@[simp] theorem State.placed_exp (s : State) (ws : List Word) : (s.placed ws).exp = s.exp := rfl
@[simp] theorem State.placed_base (s : State) (ws : List Word) : (s.placed ws).base = s.base := rfl
@[simp] theorem State.placed_topology (s : State) (ws : List Word) : (s.placed ws).topology = s.topology := rfl
@[simp] theorem State.placed_disabled (s : State) (ws : List Word) : (s.placed ws).disabled = s.disabled := rfl
@[simp] theorem State.placed_out (s : State) (ws : List Word) : (s.placed ws).out = s.out := rfl
@[simp] theorem State.placed_requests (s : State) (ws : List Word) : (s.placed ws).requests = s.requests := rfl
@[simp] theorem State.placed_freeCount (s : State) (ws : List Word) : (s.placed ws).freeCount = s.freeCount := rfl

@[simp] theorem seek_cfg (i : Index) (s : State) : (seek i s).cfg = s.cfg := rfl
@[simp] theorem seek_mem (i : Index) (s : State) : (seek i s).mem = s.mem := rfl
@[simp] theorem seek_cursor (i : Index) (s : State) : (seek i s).cursor = i := rfl
@[simp] theorem seek_length (i : Index) (s : State) : (seek i s).length = s.length := rfl
@[simp] theorem seek_bcast (i : Index) (s : State) : (seek i s).bcast = s.bcast := rfl
@[simp] theorem seek_lvdtClock (i : Index) (s : State) : (seek i s).lvdtClock = s.lvdtClock := rfl
@[simp] theorem seek_sub (i : Index) (s : State) : (seek i s).sub = s.sub := rfl
@[simp] theorem seek_variant (i : Index) (s : State) : (seek i s).variant = s.variant := rfl
@[simp] theorem seek_phase (i : Index) (s : State) : (seek i s).phase = s.phase := rfl
@[simp] theorem seek_cfgError (i : Index) (s : State) : (seek i s).cfgError = s.cfgError := rfl
@[simp] theorem seek_openBlock (i : Index) (s : State) : (seek i s).openBlock = s.openBlock := rfl
@[simp] theorem seek_exp (i : Index) (s : State) : (seek i s).exp = s.exp := rfl
@[simp] theorem seek_base (i : Index) (s : State) : (seek i s).base = s.base := rfl
@[simp] theorem seek_topology (i : Index) (s : State) : (seek i s).topology = s.topology := rfl
@[simp] theorem seek_disabled (i : Index) (s : State) : (seek i s).disabled = s.disabled := rfl
@[simp] theorem seek_out (i : Index) (s : State) : (seek i s).out = s.out := rfl
@[simp] theorem seek_requests (i : Index) (s : State) : (seek i s).requests = s.requests := rfl
@[simp] theorem seek_freeCount (i : Index) (s : State) : (seek i s).freeCount = s.freeCount := rfl

@[simp] theorem turnAway_cfg (e : PortEvent) (s : State) : (turnAway e s).cfg = s.cfg := rfl
@[simp] theorem turnAway_mem (e : PortEvent) (s : State) : (turnAway e s).mem = s.mem := rfl
@[simp] theorem turnAway_cursor (e : PortEvent) (s : State) : (turnAway e s).cursor = s.cursor := rfl
@[simp] theorem turnAway_length (e : PortEvent) (s : State) : (turnAway e s).length = s.length := rfl
@[simp] theorem turnAway_bcast (e : PortEvent) (s : State) : (turnAway e s).bcast = s.bcast := rfl
@[simp] theorem turnAway_lvdtClock (e : PortEvent) (s : State) : (turnAway e s).lvdtClock = s.lvdtClock := rfl
@[simp] theorem turnAway_sub (e : PortEvent) (s : State) : (turnAway e s).sub = s.sub := rfl
@[simp] theorem turnAway_variant (e : PortEvent) (s : State) : (turnAway e s).variant = s.variant := rfl
@[simp] theorem turnAway_phase (e : PortEvent) (s : State) : (turnAway e s).phase = s.phase := rfl
@[simp] theorem turnAway_cfgError (e : PortEvent) (s : State) : (turnAway e s).cfgError = s.cfgError := rfl
@[simp] theorem turnAway_openBlock (e : PortEvent) (s : State) : (turnAway e s).openBlock = s.openBlock := rfl
@[simp] theorem turnAway_exp (e : PortEvent) (s : State) : (turnAway e s).exp = s.exp := rfl
@[simp] theorem turnAway_base (e : PortEvent) (s : State) : (turnAway e s).base = s.base := rfl
@[simp] theorem turnAway_topology (e : PortEvent) (s : State) : (turnAway e s).topology = s.topology := rfl
@[simp] theorem turnAway_disabled (e : PortEvent) (s : State) : (turnAway e s).disabled = s.disabled := rfl
@[simp] theorem turnAway_out (e : PortEvent) (s : State) : (turnAway e s).out = .turnedAway e := rfl
@[simp] theorem turnAway_requests (e : PortEvent) (s : State) : (turnAway e s).requests = s.requests := rfl
@[simp] theorem turnAway_freeCount (e : PortEvent) (s : State) : (turnAway e s).freeCount = s.freeCount := rfl

@[simp] theorem State.modSub_cfg (s : State) (i : Subnet) (f : SubnetRegs → SubnetRegs) :
    (s.modSub i f).cfg = s.cfg := rfl
@[simp] theorem State.modSub_mem (s : State) (i : Subnet) (f : SubnetRegs → SubnetRegs) :
    (s.modSub i f).mem = s.mem := rfl
@[simp] theorem State.modSub_cursor (s : State) (i : Subnet) (f : SubnetRegs → SubnetRegs) :
    (s.modSub i f).cursor = s.cursor := rfl
@[simp] theorem State.modSub_length (s : State) (i : Subnet) (f : SubnetRegs → SubnetRegs) :
    (s.modSub i f).length = s.length := rfl
@[simp] theorem State.modSub_bcast (s : State) (i : Subnet) (f : SubnetRegs → SubnetRegs) :
    (s.modSub i f).bcast = s.bcast := rfl
@[simp] theorem State.modSub_lvdtClock (s : State) (i : Subnet) (f : SubnetRegs → SubnetRegs) :
    (s.modSub i f).lvdtClock = s.lvdtClock := rfl
@[simp] theorem State.modSub_sub (s : State) (i : Subnet) (f : SubnetRegs → SubnetRegs) :
    (s.modSub i f).sub = s.sub.set i (f s.sub[i]) := rfl
@[simp] theorem State.modSub_variant (s : State) (i : Subnet) (f : SubnetRegs → SubnetRegs) :
    (s.modSub i f).variant = s.variant := rfl
@[simp] theorem State.modSub_phase (s : State) (i : Subnet) (f : SubnetRegs → SubnetRegs) :
    (s.modSub i f).phase = s.phase := rfl
@[simp] theorem State.modSub_cfgError (s : State) (i : Subnet) (f : SubnetRegs → SubnetRegs) :
    (s.modSub i f).cfgError = s.cfgError := rfl
@[simp] theorem State.modSub_openBlock (s : State) (i : Subnet) (f : SubnetRegs → SubnetRegs) :
    (s.modSub i f).openBlock = s.openBlock := rfl
@[simp] theorem State.modSub_exp (s : State) (i : Subnet) (f : SubnetRegs → SubnetRegs) :
    (s.modSub i f).exp = s.exp := rfl
@[simp] theorem State.modSub_base (s : State) (i : Subnet) (f : SubnetRegs → SubnetRegs) :
    (s.modSub i f).base = s.base := rfl
@[simp] theorem State.modSub_topology (s : State) (i : Subnet) (f : SubnetRegs → SubnetRegs) :
    (s.modSub i f).topology = s.topology := rfl
@[simp] theorem State.modSub_disabled (s : State) (i : Subnet) (f : SubnetRegs → SubnetRegs) :
    (s.modSub i f).disabled = s.disabled := rfl
@[simp] theorem State.modSub_out (s : State) (i : Subnet) (f : SubnetRegs → SubnetRegs) :
    (s.modSub i f).out = s.out := rfl
@[simp] theorem State.modSub_requests (s : State) (i : Subnet) (f : SubnetRegs → SubnetRegs) :
    (s.modSub i f).requests = s.requests := rfl
@[simp] theorem State.modSub_freeCount (s : State) (i : Subnet) (f : SubnetRegs → SubnetRegs) :
    (s.modSub i f).freeCount = s.freeCount := rfl

@[simp] theorem State.setExp_cfg (s : State) (k : DeviceClass) (i : Nat) (n : BitVec 3) :
    (s.setExp k i n).cfg = s.cfg := rfl
@[simp] theorem State.setExp_mem (s : State) (k : DeviceClass) (i : Nat) (n : BitVec 3) :
    (s.setExp k i n).mem = s.mem := rfl
@[simp] theorem State.setExp_cursor (s : State) (k : DeviceClass) (i : Nat) (n : BitVec 3) :
    (s.setExp k i n).cursor = s.cursor := rfl
@[simp] theorem State.setExp_length (s : State) (k : DeviceClass) (i : Nat) (n : BitVec 3) :
    (s.setExp k i n).length = s.length := rfl
@[simp] theorem State.setExp_bcast (s : State) (k : DeviceClass) (i : Nat) (n : BitVec 3) :
    (s.setExp k i n).bcast = s.bcast := rfl
@[simp] theorem State.setExp_lvdtClock (s : State) (k : DeviceClass) (i : Nat) (n : BitVec 3) :
    (s.setExp k i n).lvdtClock = s.lvdtClock := rfl
@[simp] theorem State.setExp_sub (s : State) (k : DeviceClass) (i : Nat) (n : BitVec 3) :
    (s.setExp k i n).sub = s.sub := rfl
@[simp] theorem State.setExp_variant (s : State) (k : DeviceClass) (i : Nat) (n : BitVec 3) :
    (s.setExp k i n).variant = s.variant := rfl
@[simp] theorem State.setExp_phase (s : State) (k : DeviceClass) (i : Nat) (n : BitVec 3) :
    (s.setExp k i n).phase = s.phase := rfl
@[simp] theorem State.setExp_cfgError (s : State) (k : DeviceClass) (i : Nat) (n : BitVec 3) :
    (s.setExp k i n).cfgError = s.cfgError := rfl
@[simp] theorem State.setExp_openBlock (s : State) (k : DeviceClass) (i : Nat) (n : BitVec 3) :
    (s.setExp k i n).openBlock = s.openBlock := rfl
@[simp] theorem State.setExp_exp (s : State) (k : DeviceClass) (i : Nat) (n : BitVec 3) :
    (s.setExp k i n).exp = s.exp.put k i n := rfl
@[simp] theorem State.setExp_base (s : State) (k : DeviceClass) (i : Nat) (n : BitVec 3) :
    (s.setExp k i n).base = s.base := rfl
@[simp] theorem State.setExp_topology (s : State) (k : DeviceClass) (i : Nat) (n : BitVec 3) :
    (s.setExp k i n).topology = s.topology := rfl
@[simp] theorem State.setExp_disabled (s : State) (k : DeviceClass) (i : Nat) (n : BitVec 3) :
    (s.setExp k i n).disabled = s.disabled := rfl
@[simp] theorem State.setExp_out (s : State) (k : DeviceClass) (i : Nat) (n : BitVec 3) :
    (s.setExp k i n).out = s.out := rfl
@[simp] theorem State.setExp_requests (s : State) (k : DeviceClass) (i : Nat) (n : BitVec 3) :
    (s.setExp k i n).requests = s.requests := rfl
@[simp] theorem State.setExp_freeCount (s : State) (k : DeviceClass) (i : Nat) (n : BitVec 3) :
    (s.setExp k i n).freeCount = s.freeCount := rfl

@[simp] theorem State.setBase_cfg (s : State) (k : DeviceClass) (i : Nat) (n : BitVec 3) :
    (s.setBase k i n).cfg = s.cfg := rfl
@[simp] theorem State.setBase_mem (s : State) (k : DeviceClass) (i : Nat) (n : BitVec 3) :
    (s.setBase k i n).mem = s.mem := rfl
@[simp] theorem State.setBase_cursor (s : State) (k : DeviceClass) (i : Nat) (n : BitVec 3) :
    (s.setBase k i n).cursor = s.cursor := rfl
@[simp] theorem State.setBase_length (s : State) (k : DeviceClass) (i : Nat) (n : BitVec 3) :
    (s.setBase k i n).length = s.length := rfl
@[simp] theorem State.setBase_bcast (s : State) (k : DeviceClass) (i : Nat) (n : BitVec 3) :
    (s.setBase k i n).bcast = s.bcast := rfl
@[simp] theorem State.setBase_lvdtClock (s : State) (k : DeviceClass) (i : Nat) (n : BitVec 3) :
    (s.setBase k i n).lvdtClock = s.lvdtClock := rfl
@[simp] theorem State.setBase_sub (s : State) (k : DeviceClass) (i : Nat) (n : BitVec 3) :
    (s.setBase k i n).sub = s.sub := rfl
@[simp] theorem State.setBase_variant (s : State) (k : DeviceClass) (i : Nat) (n : BitVec 3) :
    (s.setBase k i n).variant = s.variant := rfl
@[simp] theorem State.setBase_phase (s : State) (k : DeviceClass) (i : Nat) (n : BitVec 3) :
    (s.setBase k i n).phase = s.phase := rfl
@[simp] theorem State.setBase_cfgError (s : State) (k : DeviceClass) (i : Nat) (n : BitVec 3) :
    (s.setBase k i n).cfgError = s.cfgError := rfl
@[simp] theorem State.setBase_openBlock (s : State) (k : DeviceClass) (i : Nat) (n : BitVec 3) :
    (s.setBase k i n).openBlock = s.openBlock := rfl
@[simp] theorem State.setBase_exp (s : State) (k : DeviceClass) (i : Nat) (n : BitVec 3) :
    (s.setBase k i n).exp = s.exp.put k i n := rfl
@[simp] theorem State.setBase_base (s : State) (k : DeviceClass) (i : Nat) (n : BitVec 3) :
    (s.setBase k i n).base = s.base.put k i n := rfl
@[simp] theorem State.setBase_topology (s : State) (k : DeviceClass) (i : Nat) (n : BitVec 3) :
    (s.setBase k i n).topology = s.topology := rfl
@[simp] theorem State.setBase_disabled (s : State) (k : DeviceClass) (i : Nat) (n : BitVec 3) :
    (s.setBase k i n).disabled = s.disabled := rfl
@[simp] theorem State.setBase_out (s : State) (k : DeviceClass) (i : Nat) (n : BitVec 3) :
    (s.setBase k i n).out = s.out := rfl
@[simp] theorem State.setBase_requests (s : State) (k : DeviceClass) (i : Nat) (n : BitVec 3) :
    (s.setBase k i n).requests = s.requests := rfl
@[simp] theorem State.setBase_freeCount (s : State) (k : DeviceClass) (i : Nat) (n : BitVec 3) :
    (s.setBase k i n).freeCount = s.freeCount := rfl

@[simp] theorem acceptTopology_cfg (t : List ILCMap) (s : State) : (acceptTopology t s).cfg = s.cfg := rfl
@[simp] theorem acceptTopology_mem (t : List ILCMap) (s : State) : (acceptTopology t s).mem = s.mem := rfl
@[simp] theorem acceptTopology_cursor (t : List ILCMap) (s : State) : (acceptTopology t s).cursor = s.cursor := rfl
@[simp] theorem acceptTopology_length (t : List ILCMap) (s : State) : (acceptTopology t s).length = s.length := rfl
@[simp] theorem acceptTopology_bcast (t : List ILCMap) (s : State) : (acceptTopology t s).bcast = s.bcast := rfl
@[simp] theorem acceptTopology_lvdtClock (t : List ILCMap) (s : State) :
    (acceptTopology t s).lvdtClock = s.lvdtClock := rfl
@[simp] theorem acceptTopology_sub (t : List ILCMap) (s : State) : (acceptTopology t s).sub = s.sub := rfl
@[simp] theorem acceptTopology_variant (t : List ILCMap) (s : State) : (acceptTopology t s).variant = s.variant := rfl
@[simp] theorem acceptTopology_phase (t : List ILCMap) (s : State) : (acceptTopology t s).phase = .configured := rfl
@[simp] theorem acceptTopology_cfgError (t : List ILCMap) (s : State) : (acceptTopology t s).cfgError = false := rfl
@[simp] theorem acceptTopology_openBlock (t : List ILCMap) (s : State) :
    (acceptTopology t s).openBlock = s.openBlock := rfl
@[simp] theorem acceptTopology_exp (t : List ILCMap) (s : State) : (acceptTopology t s).exp = s.exp := rfl
@[simp] theorem acceptTopology_base (t : List ILCMap) (s : State) : (acceptTopology t s).base = s.base := rfl
@[simp] theorem acceptTopology_topology (t : List ILCMap) (s : State) :
    (acceptTopology t s).topology = some (containersOf t) := rfl
@[simp] theorem acceptTopology_disabled (t : List ILCMap) (s : State) :
    (acceptTopology t s).disabled = initialDisabled s.cfg t := rfl
@[simp] theorem acceptTopology_out (t : List ILCMap) (s : State) : (acceptTopology t s).out = s.out := rfl
@[simp] theorem acceptTopology_requests (t : List ILCMap) (s : State) :
    (acceptTopology t s).requests = s.requests := rfl
@[simp] theorem acceptTopology_freeCount (t : List ILCMap) (s : State) :
    (acceptTopology t s).freeCount = s.freeCount := rfl

@[simp] theorem rejectTopology_cfg (s : State) : (rejectTopology s).cfg = s.cfg := rfl
@[simp] theorem rejectTopology_mem (s : State) : (rejectTopology s).mem = s.mem := rfl
@[simp] theorem rejectTopology_cursor (s : State) : (rejectTopology s).cursor = s.cursor := rfl
@[simp] theorem rejectTopology_length (s : State) : (rejectTopology s).length = s.length := rfl
@[simp] theorem rejectTopology_bcast (s : State) : (rejectTopology s).bcast = s.bcast := rfl
@[simp] theorem rejectTopology_lvdtClock (s : State) : (rejectTopology s).lvdtClock = s.lvdtClock := rfl
@[simp] theorem rejectTopology_sub (s : State) : (rejectTopology s).sub = s.sub := rfl
@[simp] theorem rejectTopology_variant (s : State) : (rejectTopology s).variant = s.variant := rfl
@[simp] theorem rejectTopology_phase (s : State) : (rejectTopology s).phase = .unconfigured := rfl
@[simp] theorem rejectTopology_cfgError (s : State) : (rejectTopology s).cfgError = true := rfl
@[simp] theorem rejectTopology_openBlock (s : State) : (rejectTopology s).openBlock = s.openBlock := rfl
@[simp] theorem rejectTopology_exp (s : State) : (rejectTopology s).exp = s.exp := rfl
@[simp] theorem rejectTopology_base (s : State) : (rejectTopology s).base = s.base := rfl
@[simp] theorem rejectTopology_topology (s : State) : (rejectTopology s).topology = none := rfl
@[simp] theorem rejectTopology_disabled (s : State) :
    (rejectTopology s).disabled = { fa := [], hp := [], hm := [] } := rfl
@[simp] theorem rejectTopology_out (s : State) : (rejectTopology s).out = s.out := rfl
@[simp] theorem rejectTopology_requests (s : State) : (rejectTopology s).requests = s.requests := rfl
@[simp] theorem rejectTopology_freeCount (s : State) : (rejectTopology s).freeCount = s.freeCount := rfl

@[simp] theorem buildInit_cfg (v : Variant) (s : State) : (buildInit v s).cfg = s.cfg := rfl
@[simp] theorem buildInit_mem (v : Variant) (s : State) : (buildInit v s).mem = s.mem := rfl
@[simp] theorem buildInit_cursor (v : Variant) (s : State) : (buildInit v s).cursor = 0 := rfl
@[simp] theorem buildInit_length (v : Variant) (s : State) : (buildInit v s).length = s.length := rfl
@[simp] theorem buildInit_bcast (v : Variant) (s : State) : (buildInit v s).bcast = s.bcast := rfl
@[simp] theorem buildInit_lvdtClock (v : Variant) (s : State) : (buildInit v s).lvdtClock = 0 := rfl
@[simp] theorem buildInit_sub (v : Variant) (s : State) :
    (buildInit v s).sub = Vector.replicate 5 SubnetRegs.initial := rfl
@[simp] theorem buildInit_variant (v : Variant) (s : State) : (buildInit v s).variant = v := rfl
@[simp] theorem buildInit_phase (v : Variant) (s : State) : (buildInit v s).phase = s.phase := rfl
@[simp] theorem buildInit_cfgError (v : Variant) (s : State) : (buildInit v s).cfgError = s.cfgError := rfl
@[simp] theorem buildInit_openBlock (v : Variant) (s : State) : (buildInit v s).openBlock = s.openBlock := rfl
@[simp] theorem buildInit_exp (v : Variant) (s : State) : (buildInit v s).exp = Banks.fill s.cfg 0 := rfl
@[simp] theorem buildInit_base (v : Variant) (s : State) : (buildInit v s).base = Banks.fill s.cfg 0 := rfl
@[simp] theorem buildInit_topology (v : Variant) (s : State) : (buildInit v s).topology = s.topology := rfl
@[simp] theorem buildInit_disabled (v : Variant) (s : State) : (buildInit v s).disabled = s.disabled := rfl
@[simp] theorem buildInit_out (v : Variant) (s : State) : (buildInit v s).out = s.out := rfl
@[simp] theorem buildInit_requests (v : Variant) (s : State) : (buildInit v s).requests = s.requests := rfl
@[simp] theorem buildInit_freeCount (v : Variant) (s : State) : (buildInit v s).freeCount = s.freeCount := rfl

@[simp] theorem buildFinish_cfg (s : State) : (buildFinish s).cfg = s.cfg := rfl
@[simp] theorem buildFinish_mem (s : State) : (buildFinish s).mem = s.mem := rfl
@[simp] theorem buildFinish_cursor (s : State) : (buildFinish s).cursor = s.cursor := rfl
@[simp] theorem buildFinish_length (s : State) : (buildFinish s).length = s.cursor := rfl
@[simp] theorem buildFinish_bcast (s : State) : (buildFinish s).bcast = s.bcast := rfl
@[simp] theorem buildFinish_lvdtClock (s : State) : (buildFinish s).lvdtClock = s.lvdtClock := rfl
@[simp] theorem buildFinish_sub (s : State) : (buildFinish s).sub = s.sub := rfl
@[simp] theorem buildFinish_variant (s : State) : (buildFinish s).variant = s.variant := rfl
@[simp] theorem buildFinish_phase (s : State) : (buildFinish s).phase = .built := rfl
@[simp] theorem buildFinish_cfgError (s : State) : (buildFinish s).cfgError = s.cfgError := rfl
@[simp] theorem buildFinish_openBlock (s : State) : (buildFinish s).openBlock = s.openBlock := rfl
@[simp] theorem buildFinish_exp (s : State) : (buildFinish s).exp = s.exp := rfl
@[simp] theorem buildFinish_base (s : State) : (buildFinish s).base = s.base := rfl
@[simp] theorem buildFinish_topology (s : State) : (buildFinish s).topology = s.topology := rfl
@[simp] theorem buildFinish_disabled (s : State) : (buildFinish s).disabled = s.disabled := rfl
@[simp] theorem buildFinish_out (s : State) : (buildFinish s).out = s.out := rfl
@[simp] theorem buildFinish_requests (s : State) : (buildFinish s).requests = s.requests := rfl
@[simp] theorem buildFinish_freeCount (s : State) : (buildFinish s).freeCount = s.freeCount := rfl

@[simp] theorem updateInit_cfg (s : State) : (updateInit s).cfg = s.cfg := rfl
@[simp] theorem updateInit_mem (s : State) : (updateInit s).mem = s.mem := rfl
@[simp] theorem updateInit_cursor (s : State) : (updateInit s).cursor = s.cursor := rfl
@[simp] theorem updateInit_length (s : State) : (updateInit s).length = s.length := rfl
@[simp] theorem updateInit_bcast (s : State) : (updateInit s).bcast = bcastNext s.cfg s.bcast := rfl
@[simp] theorem updateInit_lvdtClock (s : State) : (updateInit s).lvdtClock = s.lvdtClock := rfl
@[simp] theorem updateInit_sub (s : State) : (updateInit s).sub = s.sub := rfl
@[simp] theorem updateInit_variant (s : State) : (updateInit s).variant = s.variant := rfl
@[simp] theorem updateInit_phase (s : State) : (updateInit s).phase = s.phase := rfl
@[simp] theorem updateInit_cfgError (s : State) : (updateInit s).cfgError = s.cfgError := rfl
@[simp] theorem updateInit_openBlock (s : State) : (updateInit s).openBlock = s.openBlock := rfl
@[simp] theorem updateInit_exp (s : State) : (updateInit s).exp = s.exp := rfl
@[simp] theorem updateInit_base (s : State) : (updateInit s).base = s.base := rfl
@[simp] theorem updateInit_topology (s : State) : (updateInit s).topology = s.topology := rfl
@[simp] theorem updateInit_disabled (s : State) : (updateInit s).disabled = s.disabled := rfl
@[simp] theorem updateInit_out (s : State) : (updateInit s).out = s.out := rfl
@[simp] theorem updateInit_requests (s : State) : (updateInit s).requests = s.requests := rfl
@[simp] theorem updateInit_freeCount (s : State) : (updateInit s).freeCount = s.freeCount := rfl

@[simp] theorem updateFinish_cfg (s : State) : (updateFinish s).cfg = s.cfg := rfl
@[simp] theorem updateFinish_mem (s : State) : (updateFinish s).mem = s.mem := rfl
@[simp] theorem updateFinish_cursor (s : State) : (updateFinish s).cursor = s.cursor := rfl
@[simp] theorem updateFinish_length (s : State) : (updateFinish s).length = s.length := rfl
@[simp] theorem updateFinish_bcast (s : State) : (updateFinish s).bcast = s.bcast := rfl
@[simp] theorem updateFinish_lvdtClock (s : State) :
    (updateFinish s).lvdtClock = BitVec.ofNat 3 (lvdtNext s.lvdtClock.toNat) := rfl
@[simp] theorem updateFinish_sub (s : State) : (updateFinish s).sub = s.sub := rfl
@[simp] theorem updateFinish_variant (s : State) : (updateFinish s).variant = s.variant := rfl
@[simp] theorem updateFinish_phase (s : State) : (updateFinish s).phase = s.phase := rfl
@[simp] theorem updateFinish_cfgError (s : State) : (updateFinish s).cfgError = s.cfgError := rfl
@[simp] theorem updateFinish_openBlock (s : State) : (updateFinish s).openBlock = s.openBlock := rfl
@[simp] theorem updateFinish_exp (s : State) : (updateFinish s).exp = s.exp := rfl
@[simp] theorem updateFinish_base (s : State) : (updateFinish s).base = s.base := rfl
@[simp] theorem updateFinish_topology (s : State) : (updateFinish s).topology = s.topology := rfl
@[simp] theorem updateFinish_disabled (s : State) : (updateFinish s).disabled = s.disabled := rfl
@[simp] theorem updateFinish_out (s : State) : (updateFinish s).out = s.out := rfl
@[simp] theorem updateFinish_requests (s : State) : (updateFinish s).requests = s.requests := rfl
@[simp] theorem updateFinish_freeCount (s : State) : (updateFinish s).freeCount = s.freeCount + 1 := rfl

@[simp] theorem restorePolled_cfg (i : Subnet) (s : State) : (restorePolled i s).cfg = s.cfg := by
  unfold restorePolled; split <;> rfl
@[simp] theorem restorePolled_mem (i : Subnet) (s : State) : (restorePolled i s).mem = s.mem := by
  unfold restorePolled; split <;> rfl
@[simp] theorem restorePolled_cursor (i : Subnet) (s : State) : (restorePolled i s).cursor = s.cursor := by
  unfold restorePolled; split <;> rfl
@[simp] theorem restorePolled_length (i : Subnet) (s : State) : (restorePolled i s).length = s.length := by
  unfold restorePolled; split <;> rfl
@[simp] theorem restorePolled_bcast (i : Subnet) (s : State) : (restorePolled i s).bcast = s.bcast := by
  unfold restorePolled; split <;> rfl
@[simp] theorem restorePolled_lvdtClock (i : Subnet) (s : State) : (restorePolled i s).lvdtClock = s.lvdtClock := by
  unfold restorePolled; split <;> rfl
@[simp] theorem restorePolled_sub (i : Subnet) (s : State) : (restorePolled i s).sub = s.sub := by
  unfold restorePolled; split <;> rfl
@[simp] theorem restorePolled_variant (i : Subnet) (s : State) : (restorePolled i s).variant = s.variant := by
  unfold restorePolled; split <;> rfl
@[simp] theorem restorePolled_phase (i : Subnet) (s : State) : (restorePolled i s).phase = s.phase := by
  unfold restorePolled; split <;> rfl
@[simp] theorem restorePolled_cfgError (i : Subnet) (s : State) : (restorePolled i s).cfgError = s.cfgError := by
  unfold restorePolled; split <;> rfl
@[simp] theorem restorePolled_openBlock (i : Subnet) (s : State) : (restorePolled i s).openBlock = s.openBlock := by
  unfold restorePolled; split <;> rfl
@[simp] theorem restorePolled_base (i : Subnet) (s : State) : (restorePolled i s).base = s.base := by
  unfold restorePolled; split <;> rfl
@[simp] theorem restorePolled_topology (i : Subnet) (s : State) : (restorePolled i s).topology = s.topology := by
  unfold restorePolled; split <;> rfl
@[simp] theorem restorePolled_disabled (i : Subnet) (s : State) : (restorePolled i s).disabled = s.disabled := by
  unfold restorePolled; split <;> rfl
@[simp] theorem restorePolled_out (i : Subnet) (s : State) : (restorePolled i s).out = s.out := by
  unfold restorePolled; split <;> rfl
@[simp] theorem restorePolled_requests (i : Subnet) (s : State) : (restorePolled i s).requests = s.requests := by
  unfold restorePolled; split <;> rfl
@[simp] theorem restorePolled_freeCount (i : Subnet) (s : State) : (restorePolled i s).freeCount = s.freeCount := by
  unfold restorePolled; split <;> rfl

end Sys2Proof.Machine
end

