-- ==== Sys2Proof/Laws/Ops.lean ====
section
/-! SUPPORT. For each shared operation, what it can do, said once. -/

namespace Sys2Proof.Machine

/-! ## Sequences -/

/-- A sequence completes exactly when both its parts do. -/
theorem bind_eq_ok {α β : Type} {x : Except Stop α} {f : α → Except Stop β} {b : β} :
    (x >>= f) = .ok b ↔ ∃ a, x = .ok a ∧ f a = .ok b := by
  cases x <;> simp [bind, Except.bind]

/-- A sequence stops in its first part, or in its second. -/
theorem bind_eq_error {α β : Type} {x : Except Stop α} {f : α → Except Stop β} {e : Stop} :
    (x >>= f) = .error e ↔ x = .error e ∨ ∃ a, x = .ok a ∧ f a = .error e := by
  cases x <;> simp [bind, Except.bind]

@[simp] theorem runAll_nil {α : Type} (f : α → State → Run) (s : State) : runAll f [] s = .ok s := rfl

@[simp] theorem runAll_cons {α : Type} (f : α → State → Run) (x : α) (xs : List α) (s : State) :
    runAll f (x :: xs) s = (f x s >>= runAll f xs) := rfl

/-- What every entry's operation keeps, the whole sequence keeps. -/
theorem runAll_keeps {α : Type} {f : α → State → Run} (P : State → Prop)
    (hf : ∀ x s t, P s → f x s = .ok t → P t) (xs : List α) (s t : State) (hs : P s)
    (h : runAll f xs s = .ok t) : P t := by
  induction xs generalizing s with
  | nil => cases h; exact hs
  | cons x xs ih =>
    obtain ⟨u, hu, ht⟩ := bind_eq_ok.mp h
    exact ih u (hf x s u hs hu) ht

/-! ## Outcomes -/

/-- When an operation without a result answers a next state: it completed, or it was turned away. -/
theorem finish_next {s t : State} {r : Run} :
    finish s r = .next t ↔
      (∃ u, r = .ok u ∧ t = { u with out := .done }) ∨ (∃ e, r = .error (.refuse e) ∧ t = turnAway e s) := by
  rcases r with (f | e) | u <;> simp [finish, eq_comm]

/-- When an operation with a result answers a next state: it completed, or it was turned away. -/
theorem answer_next {s t : State} {r : Except Stop (Result × State)} :
    answer s r = .next t ↔
      (∃ v u, r = .ok (v, u) ∧ t = { u with out := .result v }) ∨
        (∃ e, r = .error (.refuse e) ∧ t = turnAway e s) := by
  rcases r with (f | e) | ⟨v, u⟩ <;> simp [answer, eq_comm]

@[simp] theorem finish_ok (s t : State) : finish s (.ok t) = .next { t with out := .done } := rfl
@[simp] theorem finish_fault (s : State) (f : Fault) : finish s (.error (.fault f)) = .fault f := rfl
@[simp] theorem finish_refuse (s : State) (e : PortEvent) :
    finish s (.error (.refuse e)) = .next (turnAway e s) := rfl
@[simp] theorem answer_ok (s t : State) (v : Result) : answer s (.ok (v, t)) = .next { t with out := .result v } := rfl
@[simp] theorem answer_fault (s : State) (f : Fault) : answer s (.error (.fault f)) = .fault f := rfl
@[simp] theorem answer_refuse (s : State) (e : PortEvent) :
    answer s (.error (.refuse e)) = .next (turnAway e s) := rfl

/-! ## Writing at the cursor -/

/-- `n` words can be written at the cursor. -/
def Fits (s : State) (n : Nat) : Prop := s.cursor.toNat + n ≤ s.cfg.capacity ∧ s.cursor.toNat + n ≤ 65535

theorem placed_cursor_toNat {s : State} {ws : List Word} (h : s.cursor.toNat + ws.length ≤ 65535) :
    (s.placed ws).cursor.toNat = s.cursor.toNat + ws.length := by
  simp only [State.placed_cursor, BitVec.toNat_ofNat]
  omega

/-- Storing in two goes is storing in one. -/
theorem placed_placed {s : State} {ws vs : List Word} (h : s.cursor.toNat + ws.length ≤ 65535) :
    (s.placed ws).placed vs = s.placed (ws ++ vs) := by
  have hc := placed_cursor_toNat h
  have hm : (s.placed ws).mem.writeAll (s.placed ws).cursor.toNat vs
      = s.mem.writeAll s.cursor.toNat (ws ++ vs) := by
    rw [hc, Memory.writeAll_append]; rfl
  have hcur : BitVec.ofNat 16 ((s.placed ws).cursor.toNat + vs.length)
      = BitVec.ofNat 16 (s.cursor.toNat + (ws ++ vs).length) := by
    rw [hc, List.length_append, Nat.add_assoc]
  unfold State.placed at hm hcur ⊢
  simp only [hm, hcur]

/-- Everything `emit` can do when it completes. -/
theorem emit_eq_ok {ws : List Word} {s t : State} :
    emit ws s = .ok t ↔ Fits s ws.length ∧ t = s.placed ws := by
  unfold emit memWrite
  by_cases h1 : s.cursor.toNat + ws.length ≤ s.cfg.capacity
  · rw [if_pos h1]
    by_cases h2 : s.cursor.toNat + ws.length ≤ 65535
    · simp [bind, Except.bind, advance, h1, h2, Fits, State.placed, eq_comm]
    · simp [bind, Except.bind, advance, h2, Fits]
  · simp [bind, Except.bind, h1, Fits]

/-- `emit` stops only by overrunning the buffer, when the capacity is a legal one. -/
theorem emit_eq_error {ws : List Word} {s : State} {e : Stop} (hc : s.cfg.capacity ≤ 65535) :
    emit ws s = .error e ↔ s.cfg.capacity < s.cursor.toNat + ws.length ∧ e = .fault .bufferOverrun := by
  unfold emit memWrite
  by_cases h1 : s.cursor.toNat + ws.length ≤ s.cfg.capacity
  · have h2 : s.cursor.toNat + ws.length ≤ 65535 := by omega
    have h3 : ¬ s.cfg.capacity < s.cursor.toNat + ws.length := by omega
    simp [bind, Except.bind, advance, h1, h2, h3]
  · simp [bind, Except.bind, h1, Nat.lt_of_not_le h1, eq_comm]

/-- `emit` as a choice between completing and overrunning, when the capacity is a legal one. -/
theorem emit_eq {ws : List Word} {s : State} (hc : s.cfg.capacity ≤ 65535) :
    emit ws s =
      if s.cursor.toNat + ws.length ≤ s.cfg.capacity then .ok (s.placed ws) else .error (.fault .bufferOverrun) := by
  split
  · rename_i h
    exact emit_eq_ok.mpr ⟨⟨h, by omega⟩, rfl⟩
  · rename_i h
    exact (emit_eq_error hc).mpr ⟨by omega, rfl⟩

theorem emit_ok {ws : List Word} {s : State} (h : s.cursor.toNat + ws.length ≤ s.cfg.capacity)
    (hc : s.cfg.capacity ≤ 65535) : emit ws s = .ok (s.placed ws) := by
  rw [emit_eq hc, if_pos h]

/-- Writing one list after another is writing both, as far as completing goes. -/
theorem emit_bind_emit {ws vs : List Word} {s t : State} :
    (emit ws s >>= emit vs) = .ok t ↔ emit (ws ++ vs) s = .ok t := by
  rw [bind_eq_ok, emit_eq_ok]
  constructor
  · rintro ⟨u, hu, ht⟩
    obtain ⟨⟨h1, h2⟩, rfl⟩ := emit_eq_ok.mp hu
    obtain ⟨⟨h3, h4⟩, rfl⟩ := emit_eq_ok.mp ht
    rw [placed_cursor_toNat h2] at h3 h4
    refine ⟨⟨?_, ?_⟩, placed_placed h2⟩
    · simpa [Nat.add_assoc] using h3
    · simpa [Nat.add_assoc] using h4
  · rintro ⟨⟨h1, h2⟩, rfl⟩
    rw [List.length_append] at h1 h2
    have h5 : s.cursor.toNat + ws.length ≤ 65535 := by omega
    refine ⟨s.placed ws, emit_eq_ok.mpr ⟨⟨by omega, by omega⟩, rfl⟩, ?_⟩
    rw [emit_eq_ok]
    refine ⟨⟨?_, ?_⟩, (placed_placed h5).symm⟩
    · rw [placed_cursor_toNat h5]
      show _ ≤ s.cfg.capacity
      omega
    · rw [placed_cursor_toNat h5]
      omega

/-- The words below the cursor after a write. -/
theorem readAll_placed {s : State} {ws : List Word} (h : s.cursor.toNat + ws.length ≤ 65535) :
    (s.placed ws).mem.readAll ((s.placed ws).cursor.toNat - ws.length) ws.length = some ws := by
  rw [placed_cursor_toNat h, Nat.add_sub_cancel]
  exact Memory.readAll_writeAll _ _ _

/-! ## Reading at the cursor -/

theorem memRead_eq_ok {a n : Nat} {s : State} {ws : List Word} :
    memRead a n s = .ok ws ↔ a + n ≤ s.cfg.capacity ∧ s.mem.readAll a n = some ws := by
  unfold memRead
  by_cases h : a + n ≤ s.cfg.capacity
  · rw [if_pos h]
    cases s.mem.readAll a n <;> simp [h]
  · simp [h]

/-- Everything `fetch` can do when it completes: the words at the cursor, and the cursor moved past them. -/
theorem fetch_eq_ok {n : Nat} {s t : State} {ws : List Word} :
    fetch n s = .ok (ws, t) ↔
      Fits s n ∧ s.mem.readAll s.cursor.toNat n = some ws
        ∧ t = { s with cursor := BitVec.ofNat 16 (s.cursor.toNat + n) } := by
  unfold fetch
  simp only [bind_eq_ok, memRead_eq_ok, advance]
  constructor
  · rintro ⟨vs, ⟨h1, h2⟩, u, h3, h4⟩
    split at h3
    · rename_i h5
      cases h3
      cases h4
      exact ⟨⟨h1, h5⟩, h2, rfl⟩
    · cases h3
  · rintro ⟨⟨h1, h5⟩, h2, rfl⟩
    exact ⟨ws, ⟨h1, h2⟩, _, by rw [if_pos h5], rfl⟩

/-! ## CRC -/

@[simp] theorem crcFrom_nil (c : BitVec 16) : crcFrom c [] = c := rfl
@[simp] theorem crcFrom_cons (c : BitVec 16) (b : Byte) (bs : List Byte) :
    crcFrom c (b :: bs) = crcFrom (crcByte c b) bs := rfl

theorem crcFrom_append (c : BitVec 16) (bs cs : List Byte) : crcFrom c (bs ++ cs) = crcFrom (crcFrom c bs) cs := by
  induction bs generalizing c with
  | nil => rfl
  | cons b bs ih => exact ih _

/-- Everything `writeCrc` can do when it completes. -/
theorem writeCrc_eq_ok {n : Nat} {s t : State} :
    writeCrc n s = .ok t ↔
      n ≤ s.cursor.toNat ∧ Fits s 2 ∧ ∃ ws, s.mem.readAll (s.cursor.toNat - n) n = some ws
        ∧ t = s.placed ((crcPair (crc16 (ws.map untag))).map (tag s.cfg)) := by
  unfold writeCrc
  by_cases h : n ≤ s.cursor.toNat ∧ s.cursor.toNat + 2 ≤ s.cfg.capacity
  · rw [if_pos h]
    simp only [bind_eq_ok, memRead_eq_ok, emitBytes, emit_eq_ok]
    constructor
    · rintro ⟨ws, ⟨-, h1⟩, h2, h3⟩
      exact ⟨h.1, h2, ws, h1, h3⟩
    · rintro ⟨-, h2, ws, h1, h3⟩
      exact ⟨ws, ⟨by omega, h1⟩, h2, h3⟩
  · rw [if_neg h]
    simp only [reduceCtorEq, false_iff]
    rintro ⟨h1, ⟨h2, -⟩, -⟩
    exact h ⟨h1, h2⟩

/-! ## Frames -/

/-- The words of a frame whose bytes are read back through the tag (45_frame_factory R202). -/
def frameList (c : Config) (a f : Byte) (d : List Byte) (tail : Word) : List Word :=
  (a :: f :: d).map (tag c)
    ++ (crcPair (crc16 ((a :: f :: d).map (fun b => untag (tag c b))))).map (tag c) ++ [c.eofWord, tail]

@[simp] theorem frameList_length (c : Config) (a f : Byte) (d : List Byte) (tail : Word) :
    (frameList c a f d tail).length = d.length + 6 := by
  simp [frameList, crcPair]

/-- A frame completes exactly when its words fit, and then it has written them. -/
theorem frame_eq_ok {a f : Byte} {d : List Byte} {tail : Word} {s t : State} :
    frame a f d tail s = .ok t ↔ Fits s (d.length + 6) ∧ t = s.placed (frameList s.cfg a f d tail) := by
  have key : ∀ t, frame a f d tail s = .ok t ↔ emit (frameList s.cfg a f d tail) s = .ok t := by
    intro t
    constructor
    · intro h
      obtain ⟨s1, h1, h⟩ := bind_eq_ok.mp h
      obtain ⟨s2, h2, h⟩ := bind_eq_ok.mp h
      obtain ⟨s3, h3, h⟩ := bind_eq_ok.mp h
      obtain ⟨s4, h4, h⟩ := bind_eq_ok.mp h
      obtain ⟨f1, rfl⟩ := emit_eq_ok.mp h1
      have e12 := emit_bind_emit.mp (bind_eq_ok.mpr ⟨_, h1, h2⟩)
      have e123 := emit_bind_emit.mp (bind_eq_ok.mpr ⟨_, e12, h3⟩)
      obtain ⟨f3, rfl⟩ := emit_eq_ok.mp e123
      obtain ⟨g2, -⟩ := emit_eq_ok.mp e12
      have hs2 := (emit_eq_ok.mp e12).2
      subst hs2
      set body := List.map (tag s.cfg) [a] ++ List.map (tag (s.placed (List.map (tag s.cfg) [a])).cfg) [f]
        ++ List.map (tag (s.placed (List.map (tag s.cfg) [a]
            ++ List.map (tag (s.placed (List.map (tag s.cfg) [a])).cfg) [f])).cfg) d with hbody
      have hb : body = (a :: f :: d).map (tag s.cfg) := by simp [hbody]
      obtain ⟨hn, f4, ws, hr, hs4⟩ := writeCrc_eq_ok.mp h4
      have hlen : body.length = d.length + 2 := by simp [hb]
      rw [← hlen, readAll_placed f3.2] at hr
      cases hr
      subst hs4
      have e5 := emit_bind_emit.mp h
      have e45 := emit_bind_emit.mp (bind_eq_ok.mpr
        ⟨_, (emit_eq_ok (s := s.placed body)
            (ws := List.map (tag (s.placed body).cfg) (crcPair (crc16 (List.map untag body))))).mpr ⟨f4, rfl⟩, e5⟩)
      have e := emit_bind_emit.mp (bind_eq_ok.mpr ⟨_, e123, e45⟩)
      have hw : List.map untag body = (a :: f :: d).map (fun b => untag (tag s.cfg b)) := by
        rw [hb, List.map_map]; rfl
      rw [hw, hb] at e
      simpa [frameList] using e
    · intro h
      obtain ⟨⟨h1, h2⟩, rfl⟩ := emit_eq_ok.mp h
      rw [frameList_length] at h1 h2
      have q1 : s.cursor.toNat + [tag s.cfg a].length ≤ 65535 := by simp; omega
      have c1 := placed_cursor_toNat q1
      have q2 : (s.placed [tag s.cfg a]).cursor.toNat + [tag s.cfg f].length ≤ 65535 := by
        rw [c1]; simp; omega
      have c2 := placed_cursor_toNat q2
      rw [placed_placed q1, c1] at c2
      have q12 : s.cursor.toNat + ([tag s.cfg a] ++ [tag s.cfg f]).length ≤ 65535 := by simp; omega
      have q3 : (s.placed ([tag s.cfg a] ++ [tag s.cfg f])).cursor.toNat + (d.map (tag s.cfg)).length ≤ 65535 := by
        rw [placed_cursor_toNat q12]; simp; omega
      set body := [tag s.cfg a] ++ [tag s.cfg f] ++ d.map (tag s.cfg) with hbody
      have hb : body = (a :: f :: d).map (tag s.cfg) := by simp [hbody]
      have hlen : body.length = d.length + 2 := by simp [hb]
      have qb : s.cursor.toNat + body.length ≤ 65535 := by omega
      have cb := placed_cursor_toNat qb
      set pair := (crcPair (crc16 (body.map untag))).map (tag s.cfg) with hpair
      have hpl : pair.length = 2 := by simp [hpair, crcPair]
      have qp : (s.placed body).cursor.toNat + pair.length ≤ 65535 := by rw [cb]; omega
      have cp := placed_cursor_toNat qp
      rw [placed_placed qb] at cp
      have qbp : s.cursor.toNat + (body ++ pair).length ≤ 65535 := by simp [hlen, hpl]; omega
      have qe : (s.placed (body ++ pair)).cursor.toNat + [s.cfg.eofWord].length ≤ 65535 := by
        rw [placed_cursor_toNat qbp]; simp [hlen, hpl]; omega
      have hw : body.map untag = (a :: f :: d).map (fun b => untag (tag s.cfg b)) := by
        rw [hb, List.map_map]; rfl
      have hfl : frameList s.cfg a f d tail = body ++ pair ++ [s.cfg.eofWord] ++ [tail] := by
        simp [frameList, hpair, hb, Function.comp_def]
      refine bind_eq_ok.mpr ⟨s.placed [tag s.cfg a], emit_eq_ok.mpr ⟨⟨by simp; omega, by simp; omega⟩, rfl⟩, ?_⟩
      refine bind_eq_ok.mpr ⟨s.placed ([tag s.cfg a] ++ [tag s.cfg f]),
        emit_eq_ok.mpr ⟨⟨?_, ?_⟩, (placed_placed q1).symm⟩, ?_⟩
      · rw [c1]; simp; omega
      · rw [c1]; simp; omega
      refine bind_eq_ok.mpr ⟨s.placed body, emit_eq_ok.mpr ⟨⟨?_, ?_⟩, (placed_placed q12).symm⟩, ?_⟩
      · rw [placed_cursor_toNat q12]; simp; omega
      · rw [placed_cursor_toNat q12]; simp; omega
      refine bind_eq_ok.mpr ⟨s.placed (body ++ pair), writeCrc_eq_ok.mpr ⟨?_, ⟨?_, ?_⟩, body, ?_, ?_⟩, ?_⟩
      · rw [cb]; omega
      · rw [cb]; simp only [State.placed_cfg]; omega
      · rw [cb]; omega
      · rw [← hlen]; exact readAll_placed qb
      · exact (placed_placed qb).symm
      refine bind_eq_ok.mpr ⟨s.placed (body ++ pair ++ [s.cfg.eofWord]),
        emit_eq_ok.mpr ⟨⟨?_, ?_⟩, (placed_placed qbp).symm⟩, ?_⟩
      · rw [placed_cursor_toNat qbp]; simp [hlen, hpl]; omega
      · rw [placed_cursor_toNat qbp]; simp [hlen, hpl]; omega
      have qbpe : s.cursor.toNat + (body ++ pair ++ [s.cfg.eofWord]).length ≤ 65535 := by
        simp [hlen, hpl]; omega
      refine emit_eq_ok.mpr ⟨⟨?_, ?_⟩, ?_⟩
      · rw [placed_cursor_toNat qbpe]; simp [hlen, hpl]; omega
      · rw [placed_cursor_toNat qbpe]; simp [hlen, hpl]; omega
      · rw [hfl, placed_placed qbpe]
  rw [key, emit_eq_ok, frameList_length]

/-- `emit` after words already written in the same run. -/
theorem emit_placed {ws vs : List Word} {s : State} (hc : s.cfg.capacity ≤ 65535)
    (h : s.cursor.toNat + ws.length ≤ s.cfg.capacity) :
    emit vs (s.placed ws) =
      if s.cursor.toNat + ws.length + vs.length ≤ s.cfg.capacity then .ok (s.placed (ws ++ vs))
      else .error (.fault .bufferOverrun) := by
  have h2 : s.cursor.toNat + ws.length ≤ 65535 := by omega
  rw [emit_eq (s := s.placed ws) hc, placed_cursor_toNat h2, placed_placed h2, State.placed_cfg]

/-- `writeCrc` over exactly the words just written reads them back. -/
theorem writeCrc_placed {ws : List Word} {s : State} (hc : s.cfg.capacity ≤ 65535)
    (h : s.cursor.toNat + ws.length ≤ s.cfg.capacity) :
    writeCrc ws.length (s.placed ws) =
      if s.cursor.toNat + ws.length + 2 ≤ s.cfg.capacity then
        .ok (s.placed (ws ++ (crcPair (crc16 (ws.map untag))).map (tag s.cfg)))
      else .error (.fault .bufferOverrun) := by
  have h2 : s.cursor.toNat + ws.length ≤ 65535 := by omega
  have hcur := placed_cursor_toNat h2
  by_cases h3 : s.cursor.toNat + ws.length + 2 ≤ s.cfg.capacity
  · rw [if_pos h3]
    refine writeCrc_eq_ok.mpr ⟨by omega, ⟨?_, by omega⟩, ws, readAll_placed h2, ?_⟩
    · rw [hcur]; exact h3
    · exact (placed_placed h2).symm
  · rw [if_neg h3]
    unfold writeCrc
    rw [if_neg]
    rw [hcur]
    exact fun h4 => h3 h4.2

/-- A frame that does not fit overruns the buffer: nothing else can happen to it. -/
theorem frame_overrun {a f : Byte} {d : List Byte} {tail : Word} {s : State} (hc : s.cfg.capacity ≤ 65535)
    (h : s.cfg.capacity < s.cursor.toNat + (d.length + 6)) :
    frame a f d tail s = .error (.fault .bufferOverrun) := by
  unfold frame emitBytes
  rw [emit_eq hc]
  split
  swap
  · rfl
  rename_i h1
  show (emit _ (s.placed _) >>= _) = _
  rw [emit_placed hc h1]
  split
  swap
  · rfl
  rename_i h2
  rw [Nat.add_assoc, ← List.length_append] at h2
  show (emit _ (s.placed _) >>= _) = _
  rw [emit_placed hc h2]
  split
  swap
  · rfl
  rename_i h3
  rw [Nat.add_assoc, ← List.length_append] at h3
  have hl : d.length + 2
      = (List.map (tag s.cfg) [a] ++ List.map (tag (s.placed (List.map (tag s.cfg) [a])).cfg) [f]
        ++ List.map (tag (s.placed (List.map (tag s.cfg) [a]
            ++ List.map (tag (s.placed (List.map (tag s.cfg) [a])).cfg) [f])).cfg) d).length := by
    simp
  show (writeCrc _ (s.placed _) >>= _) = _
  rw [hl, writeCrc_placed hc h3, ← hl]
  split
  swap
  · rfl
  rename_i h4
  have h5 : ∀ ws : List Word, ws.length = d.length + 4 →
      (emit [(s.placed ws).cfg.eofWord] (s.placed ws) >>= emit [tail])
        = .error (.fault .bufferOverrun) := by
    intro ws hws
    rw [emit_placed hc (by omega)]
    split
    swap
    · rfl
    rename_i h6
    show emit _ (s.placed _) = _
    rw [emit_placed hc (by simpa [Nat.add_assoc] using h6), if_neg]
    simp
    omega
  exact h5 _ (by rw [List.length_append, ← hl]; simp [crcPair])

/-- A frame is one run of words. -/
theorem frame_eq {a f : Byte} {d : List Byte} {tail : Word} {s : State} (hc : s.cfg.capacity ≤ 65535) :
    frame a f d tail s = emit (frameList s.cfg a f d tail) s := by
  rw [emit_eq hc, frameList_length]
  split
  · rename_i h
    exact frame_eq_ok.mpr ⟨⟨h, by omega⟩, rfl⟩
  · rename_i h
    exact frame_overrun hc (by omega)

/-- Untagging undoes tagging, for a tag that leaves bits 8:1 free (30_encoding R83). -/
theorem untag_tag {c : Config} (h : c.dataTag &&& 0x01FE#16 = 0#16) (b : Byte) : untag (tag c b) = b := by
  apply BitVec.eq_of_getLsbD_eq
  intro i hi
  have hb : (c.dataTag &&& 0x01FE#16).getLsbD (1 + i) = false := by simp [h]
  have hm : ∀ i < 8, (0x01FE#16).getLsbD (1 + i) = true := by decide
  rw [BitVec.getLsbD_and, hm i hi, Bool.and_true] at hb
  simp only [untag, tag, BitVec.getLsbD_extractLsb', hi, decide_true, Bool.true_and, BitVec.getLsbD_or, hb,
    Bool.false_or, BitVec.getLsbD_shiftLeft, BitVec.getLsbD_setWidth]
  have h1 : 1 + i < 16 := by omega
  have h2 : 1 + i - 1 = i := by omega
  simp [h1, h2]
  omega

theorem Config.parametersLegal_tag {c : Config} (h : c.parametersLegal = true) : c.dataTag &&& 0x01FE#16 = 0#16 := by
  simp only [Config.parametersLegal, Bool.and_eq_true, decide_eq_true_eq] at h
  exact h.1.1.1.2

theorem Config.parametersLegal_capacity {c : Config} (h : c.parametersLegal = true) : c.capacity ≤ 65535 := by
  simp only [Config.parametersLegal, Bool.and_eq_true, decide_eq_true_eq] at h
  exact h.1.1.1.1.2

theorem Config.legal_parameters {c : Config} (h : c.legal = true) : c.parametersLegal = true := by
  simp only [Config.legal, Bool.and_eq_true] at h
  exact h.1

/-- Every entry of a legal instance has the tail kind of its command (30_encoding R98) and carries what its frame carries
(45_frame_factory R210, 46_roundrobin R233). -/
theorem Config.legal_entry {c : Config} {k : CmdType} {e : CmdEntry} (h : c.legal = true) (he : c.entry k = some e) :
    tailKind k = some e.tail ∧ payloadLegal k e.payload = true := by
  have key : ∀ l : List (CmdType × CmdEntry),
      l.all (fun p => decide (tailKind p.1 = some p.2.tail) && payloadLegal p.1 p.2.payload) = true →
      l.lookup k = some e → tailKind k = some e.tail ∧ payloadLegal k e.payload = true := by
    intro l
    induction l with
    | nil => exact fun _ hk => nomatch hk
    | cons q l ih =>
      intro hl hk
      rw [List.all_cons, Bool.and_eq_true, Bool.and_eq_true, decide_eq_true_eq] at hl
      rw [List.lookup_cons] at hk
      split at hk
      · rename_i hq
        rw [beq_iff_eq.mp hq, ← Option.some.inj hk]
        exact hl.1
      · exact ih hl.2 hk
  simp only [Config.legal, Config.tablesLegal, Bool.and_eq_true] at h
  unfold Config.entry at he
  split at he
  · cases he
  · exact key _ h.2 he

theorem frameList_eq {c : Config} (h : c.dataTag &&& 0x01FE#16 = 0#16) (a f : Byte) (d : List Byte) (tail : Word) :
    frameList c a f d tail = frameImage c a f d tail := by
  simp [frameList, frameImage, untag_tag h]

@[simp] theorem frameImage_length (c : Config) (a f : Byte) (d : List Byte) (tail : Word) :
    (frameImage c a f d tail).length = d.length + 6 := by
  simp [frameImage, crcPair]

/-! ## Table-driven frames -/

/-- Consulting the tables succeeds exactly when entry, time-out and arguments are in order. -/
theorem frameParts_eq_ok {c : Config} {k : CmdType} {bind : List PayloadField → Option (List Byte)}
    {p : FrameParts} :
    frameParts c k bind = .ok p ↔
      ∃ e T d, c.entry k = some e ∧ c.timeoutOf k = some T ∧ bind e.payload = some d ∧ T.toNat ≤ maxDuration
        ∧ p = { function := e.function, payload := d, tail := tailWord e.tail T } := by
  unfold frameParts
  cases c.entry k with
  | none => simp
  | some e =>
    cases c.timeoutOf k with
    | none => simp
    | some T =>
      cases hb : bind e.payload with
      | none => simp [hb]
      | some d =>
        by_cases hT : T.toNat ≤ maxDuration
        · simp [hb, durationFits, hT, eq_comm]
        · simp [hb, durationFits, hT]

/-- A table-driven frame is one run of words once its tables are in order. -/
theorem frameCmd_eq {k : CmdType} {a : Byte} {bind : List PayloadField → Option (List Byte)} {s : State}
    {p : FrameParts} (hc : s.cfg.capacity ≤ 65535) (hp : frameParts s.cfg k bind = .ok p) :
    frameCmd k a bind s = emit (frameList s.cfg a p.function p.payload p.tail) s := by
  unfold frameCmd
  rw [hp]
  exact frame_eq hc

/-- A table-driven frame whose tables are not in order is turned away before the first word. -/
theorem frameCmd_refused {k : CmdType} {a : Byte} {bind : List PayloadField → Option (List Byte)} {s : State}
    {e : Stop} (hp : frameParts s.cfg k bind = .error e) : frameCmd k a bind s = .error e := by
  unfold frameCmd
  rw [hp]
  rfl

@[simp] theorem bytesBE_length {w : Nat} (p : BitVec w) (n : Nat) : (bytesBE p n).length = n := by
  induction n with
  | zero => rfl
  | succ n ih => simp [bytesBE, ih]

@[simp] theorem typedBytes_length (t : FieldType) (z : Int) : (typedBytes t z).length = typeBytes t := by
  simp [typedBytes]

theorem payloadLength_cons (f : PayloadField) (fs : List PayloadField) :
    payloadLength (f :: fs) = f.count * typeBytes f.type + payloadLength fs := rfl

theorem flatMap_typedBytes_length (t : FieldType) (zs : List Int) :
    (zs.flatMap (typedBytes t)).length = zs.length * typeBytes t := by
  induction zs with
  | nil => simp
  | cons z zs ih => simp [ih, Nat.succ_mul, Nat.add_comm]

/-- The payload of `FRAME_CMD` has the length of its entry (45_frame_factory R205). -/
theorem bindArgs_length {fs : List PayloadField} {args : List Int} {d : List Byte} (h : bindArgs fs args = some d) :
    d.length = payloadLength fs := by
  induction fs generalizing args d with
  | nil =>
    cases args with
    | nil => cases h; rfl
    | cons _ _ => cases h
  | cons f fs ih =>
    simp only [bindArgs] at h
    split at h
    · rename_i hl
      obtain ⟨rest, hr, rfl⟩ := Option.map_eq_some_iff.mp h
      rw [List.length_append, flatMap_typedBytes_length, List.length_take, Nat.min_eq_left hl, ih hr,
        payloadLength_cons]
    · cases h

theorem slice_length {xs : List Int} {first count : Nat} {zs : List Int} (h : slice xs first count = some zs) :
    zs.length = count := by
  unfold slice at h
  split at h
  · cases h
    simp
    omega
  · cases h

theorem fieldValues_length {env : FieldArgs} {f : PayloadField} {zs : List Int} (h : fieldValues env f = some zs) :
    zs.length = f.count := by
  unfold fieldValues at h
  split at h
  · split at h
    · rename_i hc
      obtain ⟨b, -, rfl⟩ := Option.map_eq_some_iff.mp h
      simp [hc]
    · cases h
  · split at h
    · rename_i hc
      obtain ⟨b, -, rfl⟩ := Option.map_eq_some_iff.mp h
      simp [hc]
    · cases h
  all_goals first | exact slice_length h | cases h

/-- The payload of a scheduled frame has the length of its entry (45_frame_factory R205). -/
theorem bindNamed_length {env : FieldArgs} {fs : List PayloadField} {d : List Byte}
    (h : bindNamed env fs = some d) : d.length = payloadLength fs := by
  induction fs generalizing d with
  | nil => cases h; rfl
  | cons f fs ih =>
    simp only [bindNamed] at h
    split at h
    · rename_i zs rest hz hr
      cases h
      rw [List.length_append, flatMap_typedBytes_length, fieldValues_length hz, ih hr, payloadLength_cons]
    · cases h

end Sys2Proof.Machine
end

