-- ==== Sys2Proof/Laws/PerInstr.lean ====
section
/-! SUPPORT. Facts about every instruction, one lemma per constructor. -/

namespace Sys2Proof.Laws

/-- An instruction has exactly one of the two encodings: a wire word under every configuration and no operation code, or an
operation code and no wire word (30_encoding R80). -/
def OneEncoding.Statement (i : Instr) : Prop :=
  (∀ c, (encodeWire c i).isSome = true ∧ opcode i = none ∧ operandBytes i = [])
    ∨ (∀ c, encodeWire c i = none ∧ (opcode i).isSome = true)

theorem OneEncoding.wData (b : Byte) : OneEncoding.Statement (.wData b) :=
  .inl (fun _ => ⟨rfl, rfl, rfl⟩)

theorem OneEncoding.wEof : OneEncoding.Statement (.wEof) :=
  .inl (fun _ => ⟨rfl, rfl, rfl⟩)

theorem OneEncoding.wTimestamp : OneEncoding.Statement (.wTimestamp) :=
  .inl (fun _ => ⟨rfl, rfl, rfl⟩)

theorem OneEncoding.wDelayUs (v : BitVec 12) : OneEncoding.Statement (.wDelayUs v) :=
  .inl (fun _ => ⟨rfl, rfl, rfl⟩)

theorem OneEncoding.wDelayMs (v : BitVec 12) : OneEncoding.Statement (.wDelayMs v) :=
  .inl (fun _ => ⟨rfl, rfl, rfl⟩)

theorem OneEncoding.wWaitrxUs (v : BitVec 12) : OneEncoding.Statement (.wWaitrxUs v) :=
  .inl (fun _ => ⟨rfl, rfl, rfl⟩)

theorem OneEncoding.wIrqtrig : OneEncoding.Statement (.wIrqtrig) :=
  .inl (fun _ => ⟨rfl, rfl, rfl⟩)

theorem OneEncoding.wSwtrig : OneEncoding.Statement (.wSwtrig) :=
  .inl (fun _ => ⟨rfl, rfl, rfl⟩)

theorem OneEncoding.wWaitrxMs (v : BitVec 12) : OneEncoding.Statement (.wWaitrxMs v) :=
  .inl (fun _ => ⟨rfl, rfl, rfl⟩)

theorem OneEncoding.wRxEof : OneEncoding.Statement (.wRxEof) :=
  .inl (fun _ => ⟨rfl, rfl, rfl⟩)

theorem OneEncoding.getIndex : OneEncoding.Statement (.getIndex) :=
  .inr (fun _ => ⟨rfl, rfl⟩)

theorem OneEncoding.setIndex (i : Index) : OneEncoding.Statement (.setIndex i) :=
  .inr (fun _ => ⟨rfl, rfl⟩)

theorem OneEncoding.incIndex (n : BitVec 16) : OneEncoding.Statement (.incIndex n) :=
  .inr (fun _ => ⟨rfl, rfl⟩)

theorem OneEncoding.reset : OneEncoding.Statement (.reset) :=
  .inr (fun _ => ⟨rfl, rfl⟩)

theorem OneEncoding.getLength : OneEncoding.Statement (.getLength) :=
  .inr (fun _ => ⟨rfl, rfl⟩)

theorem OneEncoding.setLength (n : Index) : OneEncoding.Statement (.setLength n) :=
  .inr (fun _ => ⟨rfl, rfl⟩)

theorem OneEncoding.writeRaw (w : Word) : OneEncoding.Statement (.writeRaw w) :=
  .inr (fun _ => ⟨rfl, rfl⟩)

theorem OneEncoding.readRaw : OneEncoding.Statement (.readRaw) :=
  .inr (fun _ => ⟨rfl, rfl⟩)

theorem OneEncoding.poke (i : Index) (w : Word) : OneEncoding.Statement (.poke i w) :=
  .inr (fun _ => ⟨rfl, rfl⟩)

theorem OneEncoding.writeU8 (v : BitVec 8) : OneEncoding.Statement (.writeU8 v) :=
  .inr (fun _ => ⟨rfl, rfl⟩)

theorem OneEncoding.writeI8 (v : BitVec 8) : OneEncoding.Statement (.writeI8 v) :=
  .inr (fun _ => ⟨rfl, rfl⟩)

theorem OneEncoding.writeI16 (v : BitVec 16) : OneEncoding.Statement (.writeI16 v) :=
  .inr (fun _ => ⟨rfl, rfl⟩)

theorem OneEncoding.writeI24 (v : BitVec 32) : OneEncoding.Statement (.writeI24 v) :=
  .inr (fun _ => ⟨rfl, rfl⟩)

theorem OneEncoding.writeI32 (v : BitVec 32) : OneEncoding.Statement (.writeI32 v) :=
  .inr (fun _ => ⟨rfl, rfl⟩)

theorem OneEncoding.writeU16 (v : BitVec 16) : OneEncoding.Statement (.writeU16 v) :=
  .inr (fun _ => ⟨rfl, rfl⟩)

theorem OneEncoding.writeU32 (v : BitVec 32) : OneEncoding.Statement (.writeU32 v) :=
  .inr (fun _ => ⟨rfl, rfl⟩)

theorem OneEncoding.writeSgl (v : BitVec 32) : OneEncoding.Statement (.writeSgl v) :=
  .inr (fun _ => ⟨rfl, rfl⟩)

theorem OneEncoding.writeDbl (v : BitVec 64) : OneEncoding.Statement (.writeDbl v) :=
  .inr (fun _ => ⟨rfl, rfl⟩)

theorem OneEncoding.writeCrc (n : BitVec 16) : OneEncoding.Statement (.writeCrc n) :=
  .inr (fun _ => ⟨rfl, rfl⟩)

theorem OneEncoding.writeEof : OneEncoding.Statement (.writeEof) :=
  .inr (fun _ => ⟨rfl, rfl⟩)

theorem OneEncoding.writeTimestamp : OneEncoding.Statement (.writeTimestamp) :=
  .inr (fun _ => ⟨rfl, rfl⟩)

theorem OneEncoding.writeDelay (T : BitVec 32) : OneEncoding.Statement (.writeDelay T) :=
  .inr (fun _ => ⟨rfl, rfl⟩)

theorem OneEncoding.writeWaitrx (T : BitVec 32) : OneEncoding.Statement (.writeWaitrx T) :=
  .inr (fun _ => ⟨rfl, rfl⟩)

theorem OneEncoding.writeSwtrigger : OneEncoding.Statement (.writeSwtrigger) :=
  .inr (fun _ => ⟨rfl, rfl⟩)

theorem OneEncoding.writeIrqtrigger : OneEncoding.Statement (.writeIrqtrigger) :=
  .inr (fun _ => ⟨rfl, rfl⟩)

theorem OneEncoding.readU8 : OneEncoding.Statement (.readU8) :=
  .inr (fun _ => ⟨rfl, rfl⟩)

theorem OneEncoding.readI8 : OneEncoding.Statement (.readI8) :=
  .inr (fun _ => ⟨rfl, rfl⟩)

theorem OneEncoding.readI16 : OneEncoding.Statement (.readI16) :=
  .inr (fun _ => ⟨rfl, rfl⟩)

theorem OneEncoding.readI24 : OneEncoding.Statement (.readI24) :=
  .inr (fun _ => ⟨rfl, rfl⟩)

theorem OneEncoding.readI32 : OneEncoding.Statement (.readI32) :=
  .inr (fun _ => ⟨rfl, rfl⟩)

theorem OneEncoding.readU16 : OneEncoding.Statement (.readU16) :=
  .inr (fun _ => ⟨rfl, rfl⟩)

theorem OneEncoding.readU32 : OneEncoding.Statement (.readU32) :=
  .inr (fun _ => ⟨rfl, rfl⟩)

theorem OneEncoding.readSgl : OneEncoding.Statement (.readSgl) :=
  .inr (fun _ => ⟨rfl, rfl⟩)

theorem OneEncoding.readDbl : OneEncoding.Statement (.readDbl) :=
  .inr (fun _ => ⟨rfl, rfl⟩)

theorem OneEncoding.readCrc : OneEncoding.Statement (.readCrc) :=
  .inr (fun _ => ⟨rfl, rfl⟩)

theorem OneEncoding.endOfFrame : OneEncoding.Statement (.endOfFrame) :=
  .inr (fun _ => ⟨rfl, rfl⟩)

theorem OneEncoding.endOfBuffer : OneEncoding.Statement (.endOfBuffer) :=
  .inr (fun _ => ⟨rfl, rfl⟩)

theorem OneEncoding.frameUnicast (a f : Byte) (d : List Byte) (T : BitVec 32) :
    OneEncoding.Statement (.frameUnicast a f d T) :=
  .inr (fun _ => ⟨rfl, rfl⟩)

theorem OneEncoding.frameBroadcast (a f : Byte) (d : List Byte) (T : BitVec 32) :
    OneEncoding.Statement (.frameBroadcast a f d T) :=
  .inr (fun _ => ⟨rfl, rfl⟩)

theorem OneEncoding.frameNop (n : BitVec 16) : OneEncoding.Statement (.frameNop n) :=
  .inr (fun _ => ⟨rfl, rfl⟩)

theorem OneEncoding.frameCmd (cmd : CmdType) (a : Byte) (args : List Int) :
    OneEncoding.Statement (.frameCmd cmd a args) :=
  .inr (fun _ => ⟨rfl, rfl⟩)

theorem OneEncoding.rrInc (index count : Nat) : OneEncoding.Statement (.rrInc index count) :=
  .inr (fun _ => ⟨rfl, rfl⟩)

theorem OneEncoding.bcastInc (current : Byte) : OneEncoding.Statement (.bcastInc current) :=
  .inr (fun _ => ⟨rfl, rfl⟩)

theorem OneEncoding.lvdtStep (c : Byte) : OneEncoding.Statement (.lvdtStep c) :=
  .inr (fun _ => ⟨rfl, rfl⟩)

theorem OneEncoding.openSubnet (s : Byte) : OneEncoding.Statement (.openSubnet s) :=
  .inr (fun _ => ⟨rfl, rfl⟩)

theorem OneEncoding.closeSubnet : OneEncoding.Statement (.closeSubnet) :=
  .inr (fun _ => ⟨rfl, rfl⟩)

theorem OneEncoding.loadTopology (t : List ILCMap) : OneEncoding.Statement (.loadTopology t) :=
  .inr (fun _ => ⟨rfl, rfl⟩)

theorem OneEncoding.setDisabled (cls : DeviceClass) (i : Nat) (b : Bool) :
    OneEncoding.Statement (.setDisabled cls i b) :=
  .inr (fun _ => ⟨rfl, rfl⟩)

theorem OneEncoding.build (v : Byte) (primary secondary : List Int) (slew : Bool) (steps : List Int) :
    OneEncoding.Statement (.build v primary secondary slew steps) :=
  .inr (fun _ => ⟨rfl, rfl⟩)

theorem OneEncoding.update (primary secondary : List Int) (slew : Bool) (steps : List Int) :
    OneEncoding.Statement (.update primary secondary slew steps) :=
  .inr (fun _ => ⟨rfl, rfl⟩)

theorem OneEncoding.getExpected (cls : DeviceClass) (i : Nat) : OneEncoding.Statement (.getExpected cls i) :=
  .inr (fun _ => ⟨rfl, rfl⟩)

end Sys2Proof.Laws
end

