-- ==== Sys2Proof/Laws/Schedule.lean ====
section
/-! SUPPORT. For each operation that `BUILD` and `UPDATE` share, what it can do when it completes, said once. -/

namespace Sys2Proof.Machine

/-! ## Scheduled frames -/

theorem frameWords_eq {c : Config} {k : CmdType} {e : CmdEntry} (h : c.entry k = some e) :
    frameWords c k = payloadLength e.payload + 6 := by
  simp [frameWords, h]

/-- A scheduled frame has the length its table entry gives, whatever it is composed with (45_frame_factory R205). -/
theorem scheduledImage_length {c : Config} {k : CmdType} {a : Byte} {env : FieldArgs} {p : FrameParts}
    (h : frameParts c k (bindNamed env) = .ok p) : (scheduledImage c k a env).length = frameWords c k := by
  obtain ⟨e, T, d, he, -, hd, -, rfl⟩ := frameParts_eq_ok.mp h
  rw [scheduledImage, h, frameWords_eq he]
  simp [bindNamed_length hd]

/-- A scheduled frame is one run of words once its tables are in order. -/
theorem scheduled_eq {k : CmdType} {a : Byte} {env : FieldArgs} {s : State} {p : FrameParts}
    (hl : s.cfg.parametersLegal = true) (hp : frameParts s.cfg k (bindNamed env) = .ok p) :
    scheduled k a env s = emit (scheduledImage s.cfg k a env) s := by
  rw [scheduled, frameCmd_eq (Config.parametersLegal_capacity hl) hp, frameList_eq (Config.parametersLegal_tag hl), scheduledImage, hp]

/-- Everything a scheduled frame can do when it completes. -/
theorem scheduled_eq_ok {k : CmdType} {a : Byte} {env : FieldArgs} {s t : State} (hl : s.cfg.parametersLegal = true) :
    scheduled k a env s = .ok t ↔
      (∃ p, frameParts s.cfg k (bindNamed env) = .ok p) ∧ Fits s (scheduledImage s.cfg k a env).length
        ∧ t = s.placed (scheduledImage s.cfg k a env) := by
  cases hp : frameParts s.cfg k (bindNamed env) with
  | ok p => rw [scheduled_eq hl hp, emit_eq_ok]; simp
  | error e => rw [scheduled, frameCmd_refused hp]; simp

/-- Everything the round-robin frame can do when it completes. -/
theorem pollFrame_eq_ok {i : Subnet} {d : ILCMap} {s t : State} (hl : s.cfg.parametersLegal = true) :
    pollFrame i d s = .ok t ↔
      (∃ p, frameParts s.cfg .reportServerStatus (bindNamed noArgs) = .ok p)
        ∧ Fits s (statusImage s.cfg .reportServerStatus d).length
        ∧ t = ((s.placed (statusImage s.cfg .reportServerStatus d)).modSub i
            (fun r => { r with pollData := some d.dataIndex })).setExp .fa d.dataIndex
              (s.baseOf .fa d.dataIndex + 1) := by
  unfold pollFrame
  simp only [bind_eq_ok, scheduled_eq_ok hl, statusImage]
  constructor
  · rintro ⟨u, ⟨hp, hf, rfl⟩, ht⟩
    cases ht
    exact ⟨hp, hf, rfl⟩
  · rintro ⟨hp, hf, rfl⟩
    exact ⟨_, ⟨hp, hf, rfl⟩, rfl⟩

/-- Everything an LVDT slot can do when it completes: a real frame, or a placeholder of the same length. -/
theorem lvdtSlot_eq_ok {d : ILCMap} {s t : State} (hl : s.cfg.parametersLegal = true) :
    lvdtSlot d s = .ok t ↔
      (s.lvdtClock = 0 ∧ (∃ p, frameParts s.cfg .reportLvdt (bindNamed noArgs) = .ok p)
        ∧ Fits s (slotImage s d).length
        ∧ t = (s.placed (slotImage s d)).setExp .hm d.dataIndex (s.baseOf .hm d.dataIndex + 1))
      ∨ (s.lvdtClock ≠ 0 ∧ (∃ e, s.cfg.entry .reportLvdt = some e) ∧ Fits s (slotImage s d).length
        ∧ t = (s.placed (slotImage s d)).setExp .hm d.dataIndex (s.baseOf .hm d.dataIndex)) := by
  unfold lvdtSlot slotImage
  by_cases hz : s.lvdtClock = 0
  · simp only [hz, if_true, bind_eq_ok, scheduled_eq_ok hl, statusImage, ne_eq, not_true_eq_false, false_and, or_false,
      true_and]
    constructor
    · rintro ⟨u, ⟨hp, hf, rfl⟩, ht⟩
      cases ht
      exact ⟨hp, hf, rfl⟩
    · rintro ⟨hp, hf, rfl⟩
      exact ⟨_, ⟨hp, hf, rfl⟩, rfl⟩
  · simp only [hz, if_false, false_and, false_or, ne_eq, not_false_eq_true, true_and]
    cases he : s.cfg.entry .reportLvdt with
    | none => simp
    | some e =>
      simp only [frameWords_eq he, placeholder, bind_eq_ok, emit_eq_ok]
      constructor
      · rintro ⟨u, ⟨hf, rfl⟩, ht⟩
        cases ht
        exact ⟨⟨e, rfl⟩, hf, rfl⟩
      · rintro ⟨-, hf, rfl⟩
        exact ⟨_, ⟨hf, rfl⟩, rfl⟩

/-- Everything the force-demand frame can do when it completes. -/
theorem forceFrame_eq_ok {T : Topology} {inp : Inputs} {i : Subnet} {s t : State} (hl : s.cfg.parametersLegal = true) :
    forceFrame T inp i s = .ok t ↔
      (∃ p, frameParts s.cfg .broadcastForceDemand (bindNamed (forceArgs s.freeCount i s.bcast inp T[i].fa)) = .ok p)
        ∧ Fits s (scheduledImage s.cfg .broadcastForceDemand addrBcastFA
            (forceArgs s.freeCount i s.bcast inp T[i].fa)).length
        ∧ t = s.placed (scheduledImage s.cfg .broadcastForceDemand addrBcastFA
            (forceArgs s.freeCount i s.bcast inp T[i].fa)) :=
  scheduled_eq_ok hl

/-- Everything the step-motor or freeze frame can do when it completes; without one, nothing. -/
theorem hpFrame_eq_ok {P : Profile} {inp : Inputs} {s t : State} (hl : s.cfg.parametersLegal = true) :
    hpFrame P inp s = .ok t ↔
      (hpCall P s.bcast inp = none ∧ t = s)
      ∨ ((∃ k p, hpCall P s.bcast inp = some k ∧ frameParts s.cfg k.1 (bindNamed k.2) = .ok p)
        ∧ Fits s (hpBroadcastImage s.cfg P s.bcast inp).length
        ∧ t = s.placed (hpBroadcastImage s.cfg P s.bcast inp)) := by
  unfold hpFrame hpBroadcastImage
  cases hk : hpCall P s.bcast inp with
  | none => simp [eq_comm]
  | some k =>
    simp only [scheduled_eq_ok hl, reduceCtorEq, false_and, false_or]
    constructor
    · rintro ⟨⟨p, hp⟩, hf, ht⟩
      exact ⟨⟨k, p, rfl, hp⟩, hf, ht⟩
    · rintro ⟨⟨k', p, hk', hp⟩, hf, ht⟩
      cases hk'
      exact ⟨⟨p, hp⟩, hf, ht⟩

/-! ## Subnet blocks -/

/-- Everything `OPEN_SUBNET` can do when it completes. -/
theorem openSubnet_eq_ok {i : Subnet} {s t : State} :
    openSubnet i s = .ok t ↔
      s.openBlock = none ∧ Fits s 3
        ∧ t = { s.placed [s.cfg.subnetCode[i], 0, s.cfg.swtrigWord] with
                openBlock := some { subnet := i, lenIndex := BitVec.ofNat 16 (s.cursor.toNat + 1) } } := by
  unfold openSubnet
  cases s.openBlock with
  | some b => simp
  | none =>
    simp only [bind_eq_ok, emit_eq_ok, true_and]
    constructor
    · rintro ⟨s1, ⟨h1, rfl⟩, s2, ⟨h2, rfl⟩, s3, ⟨h3, rfl⟩, ht⟩
      cases ht
      have c1 := placed_cursor_toNat h1.2
      have c2 := placed_cursor_toNat h2.2
      rw [c1] at c2
      refine ⟨⟨?_, ?_⟩, ?_⟩
      · have := h3.1
        rw [c2] at this
        simpa [Nat.add_assoc] using this
      · have := h3.2
        rw [c2] at this
        simpa [Nat.add_assoc] using this
      · simp only [State.placed_cfg]
        rw [placed_placed h1.2, placed_placed (by have := h2.2; rw [c1] at this; simpa [Nat.add_assoc] using this)]
        simp
    · rintro ⟨⟨h1, h2⟩, rfl⟩
      have q1 : s.cursor.toNat + [s.cfg.subnetCode[i]].length ≤ 65535 := by simp; omega
      have c1 := placed_cursor_toNat q1
      have q2 : s.cursor.toNat + ([s.cfg.subnetCode[i]] ++ [0]).length ≤ 65535 := by simp; omega
      have c2 := placed_cursor_toNat q2
      simp only [List.length_cons, List.length_nil, List.length_append] at c1 c2
      refine ⟨_, ⟨⟨by simp; omega, by simp; omega⟩, rfl⟩, s.placed ([s.cfg.subnetCode[i]] ++ [0]),
        ⟨⟨?_, ?_⟩, (placed_placed q1).symm⟩,
        s.placed ([s.cfg.subnetCode[i]] ++ [0] ++ [s.cfg.swtrigWord]),
        ⟨⟨?_, ?_⟩, (placed_placed q2).symm⟩, ?_⟩
      · rw [c1]; simp; omega
      · rw [c1]; simp; omega
      · rw [c2]; simp; omega
      · rw [c2]; simp; omega
      · simp

/-- Everything `CLOSE_SUBNET` can do when it completes. -/
theorem closeSubnet_eq_ok {s t : State} :
    closeSubnet s = .ok t ↔
      ∃ b, s.openBlock = some b ∧ Fits s 1 ∧ b.lenIndex.toNat < s.cfg.capacity
        ∧ t = { s.placed [s.cfg.irqtrigWord] with
                mem := (s.placed [s.cfg.irqtrigWord]).mem.write b.lenIndex.toNat
                  (blockLength (s.placed [s.cfg.irqtrigWord]) b.lenIndex),
                openBlock := none, freeCount := s.freeCount + 1 } := by
  unfold closeSubnet
  cases s.openBlock with
  | none => simp
  | some b =>
    simp only [bind_eq_ok, emit_eq_ok, memWrite, List.length_cons, List.length_nil, Option.some.injEq]
    constructor
    · rintro ⟨s1, ⟨h1, rfl⟩, s2, h2, ht⟩
      split at h2
      · rename_i h3
        cases h2
        cases ht
        exact ⟨b, rfl, h1, Nat.lt_of_succ_le h3, rfl⟩
      · cases h2
    · rintro ⟨b', rfl, h1, h3, rfl⟩
      refine ⟨_, ⟨h1, rfl⟩, _, if_pos (Nat.succ_le_of_lt h3), rfl⟩

/-! ## Counters -/

theorem rrInc_eq_ok {index count n : Nat} : rrInc index count = .ok n ↔ 0 < count ∧ n = (index + 1) % count := by
  unfold rrInc rrNext
  by_cases h : count = 0
  · simp [h]
  · simp [h, Nat.pos_of_ne_zero h, eq_comm]

theorem rrNext_lt {index count : Nat} (h : 0 < count) : rrNext index count < count := Nat.mod_lt _ h

theorem bcastNext_toNat {c : Config} (b : BitVec 8) (h : 0 < c.bcastMod) (h2 : c.bcastMod ≤ 256) :
    (bcastNext c b).toNat = (b.toNat + 1) % c.bcastMod := by
  have : (b.toNat + 1) % c.bcastMod < c.bcastMod := Nat.mod_lt _ h
  simp only [bcastNext, BitVec.toNat_ofNat]
  omega

/-! ## Tables -/

@[simp] theorem Banks.bank_put_self {α : Type} (b : Banks α) (k : DeviceClass) (i : Nat) (x : α) :
    (b.put k i x).bank k = (b.bank k).set i x := by
  cases k <;> rfl

theorem Banks.bank_put_of_ne {α : Type} (b : Banks α) {k l : DeviceClass} (i : Nat) (x : α) (h : l ≠ k) :
    (b.put k i x).bank l = b.bank l := by
  cases k <;> cases l <;> first | rfl | exact absurd rfl h

/-- Writing one entry of a bank changes that entry, if the bank has it, and no other (10_state R38). -/
theorem State.expOf_setExp (s : State) (k l : DeviceClass) (i j : Nat) (n : BitVec 3) :
    (s.setExp k i n).expOf l j = if l = k ∧ j = i ∧ i < (s.exp.bank k).length then n else s.expOf l j := by
  unfold State.expOf State.setExp
  by_cases hk : l = k
  · subst hk
    simp only [Banks.bank_put_self, List.getElem?_set, true_and]
    by_cases hj : i = j
    · subst hj
      by_cases hi : i < (s.exp.bank l).length
      · simp [hi]
      · simp [hi]
    · simp [hj, Ne.symm hj]
  · simp [Banks.bank_put_of_ne _ _ _ hk, hk]

theorem State.baseOf_setExp (s : State) (k l : DeviceClass) (i j : Nat) (n : BitVec 3) :
    (s.setExp k i n).baseOf l j = s.baseOf l j := rfl

end Sys2Proof.Machine
end

