-- ==== Sys2Proof/Tests/Slice0.lean ====
section
/-! SUPPORT. Small tests. Expected values are the spec's own: the section of 95_test_vectors or the rule is named with each
group. Below them, for every statement with hypotheses, a state and operands that meet them. -/

namespace Sys2Proof.Tests

open Sys2Proof.Machine

/-! ## Helpers -/

/-- The state an operation leaves, if it leaves one. -/
def after : Out → Option State
  | .next s => some s
  | _ => none

/-- The words from an index on after an operation. -/
def wordsAt (o : Out) (a n : Nat) : Option (List Word) := (after o).bind (fun s => s.mem.readAll a n)

/-- The cursor after an operation. -/
def cursorOf (o : Out) : Option Nat := (after o).map (fun s => s.cursor.toNat)

/-- What the port shows after an operation. -/
def outOf (o : Out) : Option PortOut := (after o).map (·.out)

/-- The fault an operation ends in. -/
def faultOf : Out → Option Fault
  | .fault f => some f
  | _ => none

/-- Reset, with the cursor at an index. -/
def cursorAt (i : Index) : State := { State.reset with cursor := i }

/-- Reset, with words from index 0 on. -/
def holding (ws : List Word) : State := { State.reset with mem := Memory.writeAll [] 0 ws }

/-- A device record. -/
def device (k : DeviceClass) (subnet address : Byte) (i : Nat) (disabled : Bool) : ILCMap :=
  { type := some k, subnet, address, actuatorId := 0, dataIndex := i, xDataIndex := 0, yDataIndex := 0,
    secondaryDataIndex := 0, disabled }

/-! ## WellFormed: one ill-formed term for each check -/

theorem test_wellFormed_list_count :
    (Instr.frameUnicast 1 3 (List.replicate 65536 0#8) 0).wellFormed = false
      ∧ (Instr.frameBroadcast 1 3 (List.replicate 65536 0#8) 0).wellFormed = false := by
  constructor <;> simp only [Instr.wellFormed, listFits, List.length_replicate] <;> rfl
theorem test_wellFormed_args : (Instr.frameCmd .resetIlc 1 [2 ^ 63]).wellFormed = false := by decide
theorem test_wellFormed_rrInc :
    (Instr.rrInc (2 ^ 64) 1).wellFormed = false ∧ (Instr.rrInc 0 (2 ^ 64)).wellFormed = false := by decide
theorem test_wellFormed_record :
    (Instr.loadTopology [{ device .fa 0 5 0 false with actuatorId := 2 ^ 63 }]).wellFormed = false
      ∧ (Instr.loadTopology [device .fa 0 5 (2 ^ 64) false]).wellFormed = false
      ∧ (Instr.loadTopology [{ device .fa 0 5 0 false with xDataIndex := 2 ^ 63 }]).wellFormed = false
      ∧ (Instr.loadTopology [{ device .fa 0 5 0 false with yDataIndex := -(2 ^ 63) - 1 }]).wellFormed = false
      ∧ (Instr.loadTopology [{ device .fa 0 5 0 false with secondaryDataIndex := 2 ^ 63 }]).wellFormed = false := by
  decide
theorem test_wellFormed_indices :
    (Instr.setDisabled .fa (2 ^ 64) true).wellFormed = false ∧ (Instr.getExpected .hm (2 ^ 64)).wellFormed = false := by
  decide
theorem test_wellFormed_build :
    (Instr.build 1 [2 ^ 63] [] false []).wellFormed = false ∧ (Instr.build 1 [] [2 ^ 63] false []).wellFormed = false
      ∧ (Instr.build 1 [] [] false [2 ^ 63]).wellFormed = false := by decide
theorem test_wellFormed_update :
    (Instr.update [2 ^ 63] [] false []).wellFormed = false ∧ (Instr.update [] [2 ^ 63] false []).wellFormed = false
      ∧ (Instr.update [] [] false [2 ^ 63]).wellFormed = false := by decide

/-! ## Decode: every constructor, from a word or bytes written out from 30_encoding R82 to R87 and R95 -/

/-- What the decoder reads from a wire word under the default literals. -/
def wire (w : Word) : Except DecodeError Instr := decode Config.standard (.wireWord w)

/-- What the decoder reads from bytes at the operation port. -/
def port (bs : List Byte) : Except DecodeError Instr := decode Config.standard (.operation bs)

theorem test_decode_wire :
    wire 0x12B4 = .ok (.wData 0x5A) ∧ wire 0x20DA = .ok .wEof ∧ wire 0x3000 = .ok .wTimestamp
      ∧ wire 0x4FFF = .ok (.wDelayUs 4095) ∧ wire 0x5005 = .ok (.wDelayMs 5) ∧ wire 0x61F4 = .ok (.wWaitrxUs 500)
      ∧ wire 0x7000 = .ok .wIrqtrig ∧ wire 0x8000 = .ok .wSwtrig ∧ wire 0x9006 = .ok (.wWaitrxMs 6)
      ∧ wire 0xA000 = .ok .wRxEof := by decide
theorem test_decode_no_wire_word :
    wire 0x0001 = .error (.noWireWord 0x0001) ∧ wire 0xB000 = .error (.noWireWord 0xB000)
      ∧ wire 0xF123 = .error (.noWireWord 0xF123) ∧ wire 0x1201 = .error (.noWireWord 0x1201) := by decide
theorem test_decode_cursor :
    port [0x00] = .ok .getIndex ∧ port [0x01, 0x01, 0x2C] = .ok (.setIndex 300)
      ∧ port [0x02, 0xFF, 0xFE] = .ok (.incIndex 0xFFFE) ∧ port [0x03] = .ok .reset ∧ port [0x04] = .ok .getLength
      ∧ port [0x05, 0x00, 0x22] = .ok (.setLength 34) ∧ port [0x06, 0x00, 0x09] = .ok (.writeRaw 9)
      ∧ port [0x07] = .ok .readRaw ∧ port [0x08, 0x00, 0x01, 0x00, 0x02] = .ok (.poke 1 2) := by decide
theorem test_decode_writers :
    port [0x10, 0x5A] = .ok (.writeU8 0x5A) ∧ port [0x11, 0x80] = .ok (.writeI8 0x80)
      ∧ port [0x12, 0xFF, 0xFE] = .ok (.writeI16 0xFFFE)
      ∧ port [0x13, 0x01, 0x23, 0x45, 0x67] = .ok (.writeI24 0x01234567)
      ∧ port [0x14, 0x80, 0x00, 0x00, 0x00] = .ok (.writeI32 0x80000000)
      ∧ port [0x15, 0x12, 0x34] = .ok (.writeU16 0x1234)
      ∧ port [0x16, 0xDE, 0xAD, 0xBE, 0xEF] = .ok (.writeU32 0xDEADBEEF)
      ∧ port [0x17, 0x3F, 0x80, 0x00, 0x00] = .ok (.writeSgl 0x3F800000)
      ∧ port [0x18, 0x40, 0x09, 0x21, 0xFB, 0x54, 0x44, 0x2D, 0x18] = .ok (.writeDbl 0x400921FB54442D18)
      ∧ port [0x19, 0x00, 0x06] = .ok (.writeCrc 6) := by decide
theorem test_decode_control :
    port [0x20] = .ok .writeEof ∧ port [0x21] = .ok .writeTimestamp
      ∧ port [0x22, 0x00, 0x00, 0x01, 0x2C] = .ok (.writeDelay 300)
      ∧ port [0x23, 0x00, 0x00, 0x13, 0x88] = .ok (.writeWaitrx 5000) ∧ port [0x24] = .ok .writeSwtrigger
      ∧ port [0x25] = .ok .writeIrqtrigger := by decide
theorem test_decode_readers :
    port [0x30] = .ok .readU8 ∧ port [0x31] = .ok .readI8 ∧ port [0x32] = .ok .readI16 ∧ port [0x33] = .ok .readI24
      ∧ port [0x34] = .ok .readI32 ∧ port [0x35] = .ok .readU16 ∧ port [0x36] = .ok .readU32
      ∧ port [0x37] = .ok .readSgl ∧ port [0x38] = .ok .readDbl ∧ port [0x39] = .ok .readCrc
      ∧ port [0x3A] = .ok .endOfFrame ∧ port [0x3B] = .ok .endOfBuffer := by decide
theorem test_decode_frames :
    port [0x40, 0x05, 0x12, 0x00, 0x00, 0x00, 0x00, 0x02, 0x58] = .ok (.frameUnicast 5 18 [] 600)
      ∧ port [0x41, 0xF9, 0x44, 0x00, 0x01, 0x03, 0x00, 0x00, 0x01, 0x2C] = .ok (.frameBroadcast 249 68 [3] 300)
      ∧ port [0x42, 0x00, 0x06] = .ok (.frameNop 6)
      ∧ port [0x43, 0x01, 0x05, 0x00, 0x00] = .ok (.frameCmd .reportServerStatus 5 []) := by decide
theorem test_decode_counters :
    port [0x50, 0, 0, 0, 0, 0, 0, 0, 5, 0, 0, 0, 0, 0, 0, 0, 3] = .ok (.rrInc 5 3)
      ∧ port [0x51, 0x0F] = .ok (.bcastInc 15) ∧ port [0x52, 0x04] = .ok (.lvdtStep 4)
      ∧ port [0x53, 0x04] = .ok (.openSubnet 4) ∧ port [0x54] = .ok .closeSubnet := by decide
theorem test_decode_buslist :
    port ([0x60, 0, 1, 2, 3, 0x54] ++ [0, 0, 0, 0, 0, 0, 0, 7] ++ [0, 0, 0, 0, 0, 0, 0, 5]
        ++ [0xFF, 0xFF, 0xFF, 0xFF, 0xFF, 0xFF, 0xFF, 0xFF] ++ [0, 0, 0, 0, 0, 0, 0, 2] ++ [0, 0, 0, 0, 0, 0, 0, 3]
        ++ [1])
      = .ok (.loadTopology [⟨some .hm, 3, 0x54, 7, 5, -1, 2, 3, true⟩])
    ∧ port [0x61, 1, 0, 0, 0, 0, 0, 0, 0, 7, 1] = .ok (.setDisabled .hp 7 true)
    ∧ port [0x62, 1, 0, 1, 0xFF, 0xFF, 0xFF, 0xFF, 0xFF, 0xFF, 0xFF, 0xFE, 0, 0, 1, 0, 0]
      = .ok (.build 1 [-2] [] true [])
    ∧ port [0x63, 0, 0, 0, 0, 0, 0, 1, 0, 0, 0, 0, 0, 0, 0, 9] = .ok (.update [] [] false [9])
    ∧ port [0x64, 2, 0, 0, 0, 0, 0, 0, 0, 4] = .ok (.getExpected .hm 4) := by decide
theorem test_decode_unknown : port [0x09] = .error (.unknownCode 0x09) ∧ port [0xFF] = .error (.unknownCode 0xFF) := by
  decide
theorem test_decodeTableWord :
    decodeTableWord 8 0x50 = some (.rrInc 0 0) ∧ decodeTableWord 16 0x9000 = some (.wWaitrxMs 0) := by decide
theorem test_withFetchWord :
    outOf (step (State.reset.withFetchWord 8 0x3B)) = some (.result (.bit true)) := by decide

/-! ## Cursor, length, raw words (95_test_vectors Part 2 section 1) -/

theorem test_getIndex : outOf (exec .getIndex (cursorAt 7)) = some (.result (.unsigned 7)) := by decide
theorem test_setIndex : cursorOf (exec (.setIndex 300) (cursorAt 7)) = some 300 := by decide
theorem test_incIndex_back : cursorOf (exec (.incIndex 0xFFFE) (cursorAt 10)) = some 8 := by decide
theorem test_incIndex_range :
    faultOf (exec (.incIndex 0xFFFE) (cursorAt 1)) = some .indexRange
      ∧ faultOf (exec (.incIndex 1) (cursorAt 65535)) = some .indexRange := by decide
/-- 44_readers R181, 41_data_writers R131, 60_exceptions R302 code 4. -/
theorem test_pastIndexRange :
    faultOf (exec .readU8 (cursorAt 65535)) = some .bufferOverrun
      ∧ faultOf (exec (.writeU8 1) (cursorAt 65535)) = some .bufferOverrun := by decide
theorem test_reset : cursorOf (exec .reset (cursorAt 34)) = some 0 := by decide
theorem test_getLength :
    outOf (exec .getLength { State.reset with length := 34 }) = some (.result (.unsigned 34)) := by decide
theorem test_setLength :
    (after (exec (.setLength 34) (cursorAt 9))).map (fun s => (s.length.toNat, s.cursor.toNat)) = some (34, 9) := by
  decide
theorem test_writeRaw : wordsAt (exec (.writeRaw 9) State.reset) 0 1 = some [0x0009] := by decide
theorem test_writeRaw_top :
    cursorOf (exec (.writeRaw 0) (cursorAt 5119)) = some 5120
      ∧ faultOf (exec (.writeRaw 0) (cursorAt 5120)) = some .bufferOverrun := by decide
theorem test_readRaw : outOf (exec .readRaw (holding [0x0009])) = some (.result (.unsigned 9)) := by decide
theorem test_readRaw_unwritten : faultOf (exec .readRaw State.reset) = some .uninitialisedRead := by decide
theorem test_poke :
    wordsAt (exec (.poke 1 2) (cursorAt 9)) 1 1 = some [2] ∧ cursorOf (exec (.poke 1 2) (cursorAt 9)) = some 9 := by
  decide
theorem test_poke_overrun : faultOf (exec (.poke 5120 0) State.reset) = some .bufferOverrun := by decide

/-! ## Typed writers (95_test_vectors Part 2 section 2) -/

theorem test_writeU8 : wordsAt (exec (.writeU8 0x5A) State.reset) 0 1 = some [0x12B4] := by decide
theorem test_writeI8 : wordsAt (exec (.writeI8 0xFE) State.reset) 0 1 = some [0x13FC] := by decide
theorem test_writeI16 : wordsAt (exec (.writeI16 0x8000) State.reset) 0 2 = some [0x1300, 0x1200] := by decide
theorem test_writeI24 :
    wordsAt (exec (.writeI24 0x01234567) State.reset) 0 3 = some [0x1246, 0x128A, 0x12CE] := by decide
theorem test_writeI32 :
    wordsAt (exec (.writeI32 0x7FFFFFFF) State.reset) 0 4 = some [0x12FE, 0x13FE, 0x13FE, 0x13FE] := by decide
theorem test_writeU16 : wordsAt (exec (.writeU16 0xA55A) State.reset) 0 2 = some [0x134A, 0x12B4] := by decide
theorem test_writeU32 :
    wordsAt (exec (.writeU32 0x01020304) State.reset) 0 4 = some [0x1202, 0x1204, 0x1206, 0x1208] := by decide
theorem test_writeSgl :
    wordsAt (exec (.writeSgl 0xC2F6E979) State.reset) 0 4 = some [0x1384, 0x13EC, 0x13D2, 0x12F2] := by decide
theorem test_writeDbl :
    wordsAt (exec (.writeDbl 0x400921FB54442D18) State.reset) 0 8
      = some [0x1280, 0x1212, 0x1242, 0x13F6, 0x12A8, 0x1288, 0x125A, 0x1230] := by decide
theorem test_writeDbl_overrun : faultOf (exec (.writeDbl 0) (cursorAt 5113)) = some .bufferOverrun := by decide

/-! ## CRC (95_test_vectors Part 2 section 3) -/

/-- The six words of V1, with the cursor past them. -/
def v1 : State :=
  { holding [0x1202, 0x1206, 0x1200, 0x1200, 0x1200, 0x1202] with cursor := 6 }

theorem test_writeCrc : wordsAt (exec (.writeCrc 6) v1) 6 2 = some [0x1308, 0x1214] := by decide +kernel
theorem test_writeCrc_window :
    wordsAt (exec (.writeCrc 5) v1) 6 2 = some [0x1342, 0x1380]
      ∧ faultOf (exec (.writeCrc 4) (cursorAt 3)) = some .bufferOverrun := by decide +kernel
theorem test_readCrc :
    outOf (exec .readCrc (holding [0x136A, 0x1266])) = some (.result (.unsigned 0x33B5)) := by decide

/-! ## Control words (95_test_vectors Part 2 section 4) -/

theorem test_writeEof : wordsAt (exec .writeEof State.reset) 0 1 = some [0x20DA] := by decide
theorem test_writeTimestamp : wordsAt (exec .writeTimestamp State.reset) 0 1 = some [0x3000] := by decide
theorem test_writeSwtrigger : wordsAt (exec .writeSwtrigger State.reset) 0 1 = some [0x8000] := by decide
theorem test_writeIrqtrigger : wordsAt (exec .writeIrqtrigger State.reset) 0 1 = some [0x7000] := by decide
theorem test_writeDelay :
    wordsAt (exec (.writeDelay 4095) State.reset) 0 1 = some [0x4FFF]
      ∧ wordsAt (exec (.writeDelay 5000) State.reset) 0 1 = some [0x5006] := by decide
theorem test_writeDelay_range : outOf (exec (.writeDelay 4095000) State.reset) = some (.turnedAway .operandRange) := by
  decide
theorem test_writeWaitrx :
    wordsAt (exec (.writeWaitrx 4096) State.reset) 0 1 = some [0x9005]
      ∧ wordsAt (exec (.writeWaitrx 4094999) State.reset) 0 1 = some [0x9FFF] := by decide

/-! ## Readers and predicates (95_test_vectors Part 2 section 5) -/

theorem test_readU8 : outOf (exec .readU8 (holding [0x9202])) = some (.result (.unsigned 1)) := by decide
theorem test_readI8 : outOf (exec .readI8 (holding [0x1300])) = some (.result (.signed (-128))) := by decide
theorem test_readI16 : outOf (exec .readI16 (holding [0x1300, 0x1200])) = some (.result (.signed (-32768))) := by decide
theorem test_readI24 :
    outOf (exec .readI24 (holding [0x1300, 0x1200, 0x1200])) = some (.result (.signed (-8388608))) := by decide
theorem test_readI32 :
    outOf (exec .readI32 (holding [0x1300, 0x1200, 0x1200, 0x1200])) = some (.result (.signed (-2147483648))) := by
  decide
theorem test_readU16 : outOf (exec .readU16 (holding [0x1224, 0x1268])) = some (.result (.unsigned 0x1234)) := by decide
theorem test_readU32 :
    outOf (exec .readU32 (holding [0x13BC, 0x135A, 0x137C, 0x13DE])) = some (.result (.unsigned 0xDEADBEEF)) := by
  decide
theorem test_readSgl :
    outOf (exec .readSgl (holding [0x12FE, 0x1380, 0x1200, 0x1202])) = some (.result (.unsigned 0x7FC00001)) := by
  decide
theorem test_readDbl :
    outOf (exec .readDbl (holding [0x1280, 0x1212, 0x1242, 0x13F6, 0x12A8, 0x1288, 0x125A, 0x1230]))
      = some (.result (.unsigned 0x400921FB54442D18)) := by decide
theorem test_endOfFrame :
    outOf (exec .endOfFrame (holding [0xA000])) = some (.result (.bit true))
      ∧ outOf (exec .endOfFrame (holding [0xA001])) = some (.result (.bit false)) := by decide
theorem test_endOfBuffer :
    outOf (exec .endOfBuffer { cursorAt 7 with length := 8 }) = some (.result (.bit false))
      ∧ outOf (exec .endOfBuffer { cursorAt 8 with length := 8 }) = some (.result (.bit true)) := by decide

/-! ## Frames (95_test_vectors Part 2 section 6) -/

theorem test_frameUnicast :
    wordsAt (exec (.frameUnicast 5 18 [] 5000) State.reset) 0 6
      = some [0x120A, 0x1224, 0x1304, 0x13DA, 0x20DA, 0x9006] := by decide +kernel
theorem test_frameBroadcast :
    wordsAt (exec (.frameBroadcast 249 68 [3] 300) State.reset) 0 7
      = some [0x13F2, 0x1288, 0x1206, 0x13A4, 0x13E0, 0x20DA, 0x412C] := by decide +kernel
theorem test_frameNop :
    wordsAt (exec (.frameNop 6) (cursorAt 20)) 20 6 = some [0x4000, 0x4000, 0x4000, 0x4000, 0x4000, 0x4000]
      ∧ cursorOf (exec (.frameNop 0) (cursorAt 20)) = some 20 := by decide
theorem test_frameCmd :
    wordsAt (exec (.frameCmd .reportServerStatus 5 []) State.reset) 0 6
      = some [0x120A, 0x1224, 0x1304, 0x13DA, 0x20DA, 0x6258] := by decide +kernel
theorem test_frameCmd_absent : outOf (exec (.frameCmd .resetIlc 5 []) State.reset) = some (.turnedAway .refused) := by
  decide

/-! ## Counters (46_roundrobin R230 to R234) -/

theorem test_rrInc : outOf (exec (.rrInc 5 3) State.reset) = some (.result (.unsigned 0)) := by decide
theorem test_rrInc_zero : faultOf (exec (.rrInc 5 0) State.reset) = some .zeroCount := by decide
theorem test_bcastInc : outOf (exec (.bcastInc 15) State.reset) = some (.result (.unsigned 0)) := by decide
theorem test_lvdtStep :
    outOf (exec (.lvdtStep 0) State.reset) = some (.result (.unsigned 4))
      ∧ outOf (exec (.lvdtStep 5) State.reset) = some (.turnedAway .refused) := by decide

/-! ## Subnet blocks (47_buslist R250, R251) -/

/-- Reset, after `OPEN_SUBNET 0`. -/
def opened : State :=
  { holding [0x0001, 0x0000, 0x8000] with cursor := 3, openBlock := some { subnet := 0, lenIndex := 1 } }

theorem test_openSubnet :
    exec (.openSubnet 0) State.reset = .next { opened with out := .done } := rfl
theorem test_openSubnet_refused :
    outOf (exec (.openSubnet 1) opened) = some (.turnedAway .refused)
      ∧ outOf (exec (.openSubnet 5) State.reset) = some (.turnedAway .refused) := by decide
theorem test_closeSubnet : wordsAt (exec .closeSubnet opened) 0 4 = some [0x0001, 0x0002, 0x8000, 0x7000] := by decide
theorem test_closeSubnet_refused : outOf (exec .closeSubnet State.reset) = some (.turnedAway .refused) := by decide

/-! ## Configuration, BUILD and UPDATE (95_test_vectors V15; 47_buslist R281) -/

theorem test_loadTopology_rejected :
    (after (exec (.loadTopology [device .fa 0 5 0 false, device .fa 0 5 1 false]) State.reset)).map
        (fun s => (s.out, s.cfgError, s.phase))
      = some (.result (.bit false), true, .unconfigured) := by decide

/-- An instance with small banks and payloads, of a given capacity. Its parameters are legal, its force demand is cut down to
the counter, the slew flag and one slot, so that the kernel evaluates it fast. -/
def small (capacity : Nat) : Config :=
  { Config.standard with
    capacity := capacity, nFA := 2, nHP := 1, nHM := 1,
    cmdTable :=
      (.broadcastForceDemand, ⟨75, [⟨.counter, .u8, 1⟩, ⟨.slew 255 0, .u8, 1⟩, ⟨.saaPrimary 4, .i24, 1⟩], .broadcast⟩)
        :: (.broadcastStepMotor, ⟨66, [⟨.counter, .u8, 1⟩, ⟨.steps 0, .i8, 1⟩], .broadcast⟩)
        :: testCmdTable.drop 1 }

/-- Two force actuators on subnet 0, a hardpoint actuator on subnet 1, a monitor on subnet 2. -/
def fleet : List ILCMap :=
  [device .fa 0 5 0 false, device .fa 0 20 1 false, device .hp 1 1 0 false, device .hm 2 84 0 false]

/-- An instance with the fleet loaded. -/
def loaded (c : Config) : State := { acceptTopology fleet (State.resetWith c) with out := .result (.bit true) }

/-- The small instance with the fleet loaded. -/
def configured (capacity : Nat) : State := loaded (small capacity)

theorem test_loadTopology_accepted :
    after (exec (.loadTopology fleet) (State.resetWith (small 94))) = some (configured 94) := by decide
theorem test_setDisabled :
    (after (exec (.setDisabled .fa 1 true) (configured 94))).map (·.disabled.fa) = some [false, true] := by decide
theorem test_setDisabled_refused :
    outOf (exec (.setDisabled .hm 1 true) (configured 94)) = some (.turnedAway .refused) := by decide

/-- What `BUILD 1` leaves of the fleet. -/
def built : Option State := after (exec (.build 1 [1000, -2000] [] false [5]) (configured 94))

/-- V13's topology, loaded in the default instance. -/
def v13 : State :=
  acceptTopology [device .hp 1 1 0 false, device .hm 2 84 0 false, device .hm 2 85 1 false] State.reset

/-- V13's `BUILD`. -/
def v13Built : Out := exec (.build 1 (List.replicate 156 0) [] false [5, 0, 0, 0, 0, 0]) v13

/-- V13's `BUILD`, then its first `UPDATE` from the countdown value given. -/
def v13Updated (clock : BitVec 3) : Out :=
  match v13Built with
  | .next s => exec (.update (List.replicate 156 0) [] false [-3, 0, 0, 0, 0, 0]) { s with lvdtClock := clock }
  | o => o

/-- V12's force actuators. -/
def v12 : List ILCMap := [device .fa 0 5 0 false, device .fa 0 20 1 false]

/-- The payload of V12's force demand. -/
def v12Payload (bcast : BitVec 8) (p q r : Int) (slew : Bool) : List Byte :=
  (bindNamed (forceArgs 0 0 bcast { primary := p :: q :: List.replicate 154 0, secondary := [r], slew, steps := [] } v12)
    forceDemandPayload).getD []

/-- 95_test_vectors V12: counter and slew at words 5 and 6, `saaPrimary[4]` at 19, `daaPrimary[3]` and `daaSecondary[3]` at 73,
after `BUILD` and after `UPDATE`. -/
theorem test_force_built :
    (v12Payload 0 1000 (-2000) 3000 false).take 2 = [0x00, 0x00]
      ∧ ((v12Payload 0 1000 (-2000) 3000 false).drop 13).take 5 = [0x00, 0x00, 0x03, 0xE8, 0x00]
      ∧ ((v12Payload 0 1000 (-2000) 3000 false).drop 67).take 8 = [0x00, 0xFF, 0xF8, 0x30, 0x00, 0x0B, 0xB8, 0x00] := by
  decide +kernel
theorem test_force_updated :
    (v12Payload 1 1001 (-2001) 3001 true).take 2 = [0x01, 0xFF]
      ∧ ((v12Payload 1 1001 (-2001) 3001 true).drop 14).take 3 = [0x00, 0x03, 0xE9]
      ∧ ((v12Payload 1 1001 (-2001) 3001 true).drop 68).take 6 = [0xFF, 0xF8, 0x2F, 0x00, 0x0B, 0xB9] := by decide +kernel

/-- The same slot through `BUILD`, with the small payload. -/
theorem test_build_force :
    built.bind (fun s => s.mem.readAll 3 7) = some [0x13F0, 0x1296, 0x1200, 0x1200, 0x1200, 0x1206, 0x13D0] := by
  decide +kernel

/-- 46_roundrobin R233: a counter field of two bytes makes no instance, and no frame is composed with it. -/
theorem test_counter_oneByte :
    ({ Config.standard with cmdTable := [(.broadcastFreezeSensor, ⟨68, [⟨.counter, .u16, 1⟩], .broadcast⟩)] } :
        Config).legal = false
      ∧ bindNamed (freezeArgs 3) [⟨.counter, .u16, 1⟩] = none ∧ bindNamed (freezeArgs 3) [⟨.counter, .u8, 1⟩] = some [3] := by
  decide
theorem test_legal_force_demand :
    ({ Config.standard with cmdTable :=
        [(.broadcastForceDemand, ⟨75, forceDemandPayload.drop 1, .broadcast⟩)] } : Config).legal = false
      ∧ ({ Config.standard with cmdTable :=
        [(.broadcastForceDemand, ⟨75, forceDemandPayload.dropLast, .broadcast⟩)] } : Config).legal = false := by
  decide +kernel

theorem test_build :
    wordsAt v13Built 4 9
        = some [0x0002, 0x001B, 0x8000, 0x13F2, 0x1284, 0x1200, 0x120A, 0x1200, 0x1200]
      ∧ wordsAt v13Built 72 6 = some [0x12A8, 0x12F4, 0x137C, 0x1326, 0x20DA, 0x9005]
      ∧ cursorOf v13Built = some 93 := by decide +kernel
theorem test_build_empty :
    wordsAt (exec (.build 3 [0, 0] [] false [0]) (acceptTopology [] (State.resetWith (small 20)))) 12 8
      = some [0x0004, 0x0002, 0x8000, 0x7000, 0x0005, 0x0002, 0x8000, 0x7000] := by decide +kernel
theorem test_update :
    wordsAt (v13Updated 4) 7 13
        = some [0x13F2, 0x1284, 0x1202, 0x13FA, 0x1200, 0x1200, 0x1200, 0x1200, 0x1200, 0x13C8, 0x12C0, 0x20DA, 0x4172]
      ∧ wordsAt (v13Updated 4) 72 12 = some (List.replicate 12 0x4000)
      ∧ cursorOf (v13Updated 4) = some 84 := by decide +kernel
theorem test_update_refused :
    outOf (exec (.update [0, 0] [] false [0]) (configured 94)) = some (.turnedAway .refused) := by decide
theorem test_getExpected :
    outOf (match v13Built with
           | .next s => exec (.getExpected .hm 1) s
           | o => o) = some (.result (.unsigned 4)) := by decide +kernel
theorem test_getExpected_range : outOf (exec (.getExpected .hm 1) (configured 94)) = some (.turnedAway .refused) := by
  decide

/-! ## Witnesses: for every statement with hypotheses, a state and operands that meet them

The name is the statement's. Where a statement has several clauses the witness meets each of them, at a boundary of its
range. -/

theorem witness_OperationDecodesBackToItself :
    (Instr.rrInc (2 ^ 64 - 1) 0).wellFormed = true ∧ (opcode (.rrInc (2 ^ 64 - 1) 0)).isSome = true := by decide
theorem witness_WireWordDecodesExactlyToItsInstruction :
    Config.standard.parametersLegal = true ∧ encodeWire Config.standard (.wDelayUs 4095) = some 0x4FFF := by decide
theorem witness_UnknownOperationCodeIsTurnedAway :
    (0x09#8).toNat ∉ operationCodes ∧ (0x65#8).toNat ∉ operationCodes
      ∧ ({ State.reset with requests := [.operation [0x65]] } : State).requests = .operation (0x65 :: []) :: [] := by
  decide
theorem witness_StepRunsTheDecodedInstruction :
    (State.reset.withFetchWord 8 0x03).requests
        = .operation (0x03 :: List.replicate 16 0) :: State.reset.requests
      ∧ decode Config.standard (.operation (0x03 :: List.replicate 16 0)) = .ok .reset
      ∧ State.reset.requests = []
      ∧ decode Config.standard (.wireWord 0xB000) = .error (.noWireWord 0xB000)
      ∧ decode Config.standard (.operation [0x01, 0x00]) = .error .missingOperand
      ∧ decode Config.standard (.operation [0x61, 0x03]) = .error (.badOperand 0x03) := by decide
theorem witness_ClassifierAnswersByHighNibble :
    Config.standard.parametersLegal = true ∧ nibble 0xB000 ∉ Config.standard.nibbles := by decide
theorem witness_UntaggingIgnoresTheTag : Config.standard.dataTag &&& 0x01FE#16 = 0#16 := by decide
theorem witness_DurationsAreEncodedAndDecoded :
    Config.standard.parametersLegal = true ∧ (4095#32).toNat < 4096 ∧ 4096 ≤ (4096#32).toNat
      ∧ (4096 ≤ (4094999#32).toNat ∧ (4094999#32).toNat ≤ 4094999) := by decide
theorem witness_IncIndexAddsInsideTheIndexRange :
    (((cursorAt 2).cursor.toNat : Int) + (0xFFFE#16).toInt = 0)
      ∧ (((cursorAt 65534).cursor.toNat : Int) + (1#16).toInt = 65535)
      ∧ (((cursorAt 1).cursor.toNat : Int) + (0xFFFE#16).toInt < 0)
      ∧ 65535 < (((cursorAt 65535).cursor.toNat : Int) + (1#16).toInt) := by decide

/-- `Writes` has a state for each of its clauses, whatever number of words from 1 on. -/
theorem room_at (k : Nat) (h : k ≤ 5120) : Room (cursorAt (BitVec.ofNat 16 (5120 - k))) k := by
  have e : (cursorAt (BitVec.ofNat 16 (5120 - k))).cursor.toNat = 5120 - k := by
    show (BitVec.ofNat 16 (5120 - k)).toNat = _
    rw [BitVec.toNat_ofNat]
    omega
  refine ⟨?_, (by decide : 5120 ≤ 65535)⟩
  rw [e]
  show 5120 - k + k ≤ 5120
  omega

theorem witness_WriteRawStoresTheWordAsGiven :
    Room (cursorAt 5119) 1 ∧ (cursorAt 5120).cfg.capacity < (cursorAt 5120).cursor.toNat + 1 :=
  ⟨room_at 1 (by decide), by decide⟩
theorem witness_ReadRawReturnsTheWordAsStored :
    (Room (holding [9]) 1 ∧ Holds (holding [9]).mem (holding [9]).cursor.toNat [9])
      ∧ (cursorAt 5120).cfg.capacity < (cursorAt 5120).cursor.toNat + 1
      ∧ (State.reset.cursor.toNat + 1 ≤ State.reset.cfg.capacity ∧ Unwritten State.reset.mem 0 1) :=
  ⟨⟨⟨by decide, by decide⟩, by unfold Holds; decide⟩, by decide, by decide, 0, by decide, rfl⟩
theorem witness_PokeStoresAtItsIndex :
    (5119#16).toNat < State.reset.cfg.capacity ∧ State.reset.cfg.capacity ≤ (5120#16).toNat := by decide
theorem witness_TypedWritersStoreBigEndianDataWords :
    Room (cursorAt 5119) 1 ∧ Room (cursorAt 5118) 2 ∧ Room (cursorAt 5117) 3 ∧ Room (cursorAt 5116) 4
      ∧ Room (cursorAt 5112) 8 ∧ (cursorAt 5120).cfg.capacity < (cursorAt 5120).cursor.toNat + 1
      ∧ (cursorAt 5113).cfg.capacity < (cursorAt 5113).cursor.toNat + 8 :=
  ⟨room_at 1 (by decide), room_at 2 (by decide), room_at 3 (by decide), room_at 4 (by decide),
    room_at 8 (by decide), by decide, by decide⟩
theorem witness_TypedReadersReturnWhatTheWordsCarry :
    (Room (holding (List.replicate 8 0x13FE)) 8
        ∧ Holds (holding (List.replicate 8 0x13FE)).mem 0 (List.replicate 8 0x13FE))
      ∧ (cursorAt 5113).cfg.capacity < (cursorAt 5113).cursor.toNat + 8
      ∧ Unwritten (holding (List.replicate 7 0x13FE)).mem 0 8 :=
  ⟨⟨⟨by decide, by decide⟩, by unfold Holds; decide⟩, by decide, 7, by decide, by decide⟩
theorem witness_WriteThenReadReturnsTheValue :
    (cursorAt 5112).cfg.parametersLegal = true ∧ Room (cursorAt 5119) 1 ∧ Room (cursorAt 5118) 2 ∧ Room (cursorAt 5117) 3
      ∧ Room (cursorAt 5116) 4 ∧ Room (cursorAt 5112) 8
      ∧ (-8388608 ≤ (0xFF800000#32).toInt ∧ (0xFF800000#32).toInt ≤ 8388607) :=
  ⟨by decide, room_at 1 (by decide), room_at 2 (by decide), room_at 3 (by decide), room_at 4 (by decide),
    room_at 8 (by decide), by decide⟩
theorem witness_PredicatesAnswerWithoutMoving :
    ((holding [0xA000]).cursor.toNat < (holding [0xA000]).cfg.capacity
        ∧ (holding [0xA000]).mem.read (holding [0xA000]).cursor.toNat = some 0xA000)
      ∧ (cursorAt 5120).cfg.capacity ≤ (cursorAt 5120).cursor.toNat
      ∧ ((cursorAt 5119).cursor.toNat < (cursorAt 5119).cfg.capacity
        ∧ (cursorAt 5119).mem.read (cursorAt 5119).cursor.toNat = none) := by decide
theorem witness_WriteCrcAppendsTheCrcOfItsWindow :
    ((6#16).toNat ≤ v1.cursor.toNat ∧ Holds v1.mem (v1.cursor.toNat - (6#16).toNat)
        [0x1202, 0x1206, 0x1200, 0x1200, 0x1200, 0x1202] ∧ Room v1 2)
      ∧ (v1.cursor.toNat < (7#16).toNat) ∧ (cursorAt 5119).cfg.capacity < (cursorAt 5119).cursor.toNat + 2
      ∧ ((1#16).toNat ≤ (cursorAt 5118).cursor.toNat
        ∧ (cursorAt 5118).cursor.toNat + 2 ≤ (cursorAt 5118).cfg.capacity
        ∧ Unwritten (cursorAt 5118).mem ((cursorAt 5118).cursor.toNat - (1#16).toNat) (1#16).toNat) :=
  ⟨⟨by decide, by unfold Holds; decide, by decide, by decide⟩, by decide, by decide, by decide, by decide, 0,
    by decide, rfl⟩
theorem witness_ReadCrcReturnsWhatWriteCrcWrote :
    (Room (holding [0x1308, 0x1214]) 2 ∧ Holds (holding [0x1308, 0x1214]).mem 0 [0x1308, 0x1214])
      ∧ (cursorAt 5119).cfg.capacity < (cursorAt 5119).cursor.toNat + 2 ∧ Unwritten (holding [0x1308]).mem 0 2
      ∧ (v1.cfg.parametersLegal = true ∧ (6#16).toNat ≤ v1.cursor.toNat ∧ Holds v1.mem (v1.cursor.toNat - (6#16).toNat)
        [0x1202, 0x1206, 0x1200, 0x1200, 0x1200, 0x1202] ∧ Room v1 2) :=
  ⟨⟨⟨by decide, by decide⟩, by unfold Holds; decide⟩, by decide, ⟨1, by decide, by decide⟩, by decide, by decide,
    by unfold Holds; decide, by decide, by decide⟩
theorem witness_FixedLiteralWritersStoreTheLiteral :
    Room (cursorAt 5119) 1 ∧ (cursorAt 5120).cfg.capacity < (cursorAt 5120).cursor.toNat + 1 :=
  ⟨room_at 1 (by decide), by decide⟩
theorem witness_DurationWritersStoreTheirWord :
    (4095#32).toNat < 4096 ∧ (4096 ≤ (4096#32).toNat ∧ (4096#32).toNat ≤ 4094999)
      ∧ (4096 ≤ (4094999#32).toNat ∧ (4094999#32).toNat ≤ 4094999) ∧ 4094999 < (4095000#32).toNat
      ∧ Room (cursorAt 5119) 1 ∧ (cursorAt 5120).cfg.capacity < (cursorAt 5120).cursor.toNat + 1 :=
  ⟨by decide, by decide, by decide, by decide, room_at 1 (by decide), by decide⟩
theorem witness_GenericFramesAreWrittenWhole :
    (State.reset.cfg.parametersLegal = true ∧ ([] : List Byte).length + 2 ≤ 65535 ∧ (4094999#32).toNat ≤ 4094999)
      ∧ Room (cursorAt 5114) (frameImage Config.standard 5 18 [] (waitWord 600)).length
      ∧ (cursorAt 5115).cfg.capacity
        < (cursorAt 5115).cursor.toNat + (frameImage Config.standard 5 18 [] (waitWord 600)).length :=
  ⟨by decide, room_at 6 (by decide), by decide⟩
theorem witness_GenericFramesOutsideTheirDomainAreTurnedAway :
    65535 < (List.replicate 65534 (0 : Byte)).length + 2
      ∧ ((List.replicate 65533 (0 : Byte)).length + 2 ≤ 65535 ∧ 4094999 < (4095000#32).toNat) := by
  simp only [List.length_replicate]
  decide
theorem witness_FrameNopStoresCopiesOfNopWord :
    Room (cursorAt 5120) (List.replicate (0#16).toNat Config.standard.nopWord).length
      ∧ (cursorAt 5115).cfg.capacity
        < (cursorAt 5115).cursor.toNat + (List.replicate (6#16).toNat Config.standard.nopWord).length :=
  ⟨room_at 0 (by decide), by decide⟩
theorem witness_TableFrameIsWrittenFromItsEntry :
    (small 94).parametersLegal = true
      ∧ (Config.standard.legal = true ∧ (Config.standard.entry .broadcastStepMotor).map (·.tail) = some .broadcast)
      ∧ (small 94).entry .broadcastStepMotor = some ⟨66, [⟨.counter, .u8, 1⟩, ⟨.steps 0, .i8, 1⟩], .broadcast⟩
      ∧ (small 94).timeoutOf .broadcastStepMotor = some 370 ∧ (370#32).toNat ≤ 4094999
      ∧ ([3, -1] : List Int).length
        = (fieldTypes ⟨66, [⟨.counter, .u8, 1⟩, ⟨.steps 0, .i8, 1⟩], .broadcast⟩).length
      ∧ (State.resetWith (small 94)).cursor.toNat + 8 ≤ (small 94).capacity := by decide
theorem witness_TableFrameOutsideItsDomainIsTurnedAway :
    Config.standard.entry .nop = none ∧ ({ Config.standard with timeout := [] } : Config).timeoutOf .reportLvdt = none
      ∧ (Config.standard.entry .reportLvdt = some ⟨122, [], .unicast⟩
        ∧ Config.standard.timeoutOf .reportLvdt = some 4500
        ∧ ([1] : List Int).length ≠ (fieldTypes ⟨122, [], .unicast⟩).length)
      ∧ (({ Config.standard with timeout := [(.reportLvdt, 4095000)] } : Config).timeoutOf .reportLvdt = some 4095000
        ∧ ([] : List Int).length = (fieldTypes ⟨122, [], .unicast⟩).length ∧ 4094999 < (4095000#32).toNat) := by
  decide
theorem witness_PlaceholderHasTheLengthOfItsFrame :
    outOf (exec (.frameCmd .reportLvdt 84 []) (cursorAt 5114)) = some .done := by decide +kernel
theorem witness_RoundRobinIncrement : 0 < 1 ∧ (0 : Nat) = 0 := by decide
theorem witness_BroadcastCounterIncrement : State.reset.cfg.parametersLegal = true := by decide
theorem witness_LvdtStepCountsDown : (0#8).toNat ≤ 4 ∧ (4#8).toNat ≤ 4 := by decide
theorem witness_LvdtCountdownHasPeriodFive : 0 ≤ 4 ∧ 4 ≤ 4 := by decide
theorem witness_OpenSubnetWritesTheBlockHead :
    ((4#8).toNat = (4 : Subnet).val ∧ State.reset.openBlock = none ∧ Room (cursorAt 5117) 3)
      ∧ ((cursorAt 5118).cfg.capacity ≤ 65535 ∧ (cursorAt 5118).cfg.capacity < (cursorAt 5118).cursor.toNat + 3)
      ∧ opened.openBlock.isSome = true ∧ 4 < (5#8).toNat :=
  ⟨⟨by decide, by decide, room_at 3 (by decide)⟩, by decide, by decide, by decide⟩
theorem witness_CloseSubnetWritesTheBlockLength :
    (opened.openBlock = some { subnet := 0, lenIndex := 1 } ∧ Room opened 1
        ∧ (1#16).toNat < opened.cfg.capacity ∧ (1#16).toNat ≤ opened.cursor.toNat)
      ∧ (({ opened with cursor := 1 } : State).openBlock = some { subnet := 0, lenIndex := 1 }
        ∧ (1#16).toNat ≤ ({ opened with cursor := 1 } : State).cursor.toNat)
      ∧ (({ opened with cursor := 5120 } : State).openBlock.isSome = true
        ∧ ({ opened with cursor := 5120 } : State).cfg.capacity ≤ ({ opened with cursor := 5120 } : State).cursor.toNat)
      ∧ State.reset.openBlock = none :=
  ⟨⟨by decide, ⟨by decide, by decide⟩, by decide, by decide⟩, by decide, by decide, by decide⟩
theorem witness_EmptyBlockIsFourWords : State.reset.openBlock = none ∧ Room (cursorAt 5116) 4 :=
  ⟨by decide, room_at 4 (by decide)⟩
theorem witness_LoadTopologyAcceptsExactlyValidLists :
    TopologyOk (small 94) [device .fa 4 48 1 true, device .hp 0 247 0 false]
      ∧ ¬ TopologyOk (small 94) [device .fa 4 49 1 true] := by
  constructor
  · refine ⟨?_, by decide, by decide, ?_⟩
    · unfold RecordOk
      decide
    · intro i k
      exact Nat.le_trans (List.length_filter_le _ _) (by decide)
  · rintro ⟨h, -⟩
    have := h _ (List.mem_singleton.mpr rfl)
    revert this
    unfold RecordOk
    decide
theorem witness_SetDisabledWritesOneBit :
    ((configured 94).phase ≠ .unconfigured ∧ (configured 94).topology = some (containersOf fleet)
        ∧ 1 < ((configured 94).disabled.bank .fa).length
        ∧ ∃ n : Subnet, ∃ d ∈ (containersOf fleet)[n].devices .fa, d.dataIndex = 1)
      ∧ ¬ ∃ n : Subnet, ∃ d ∈ (containersOf fleet)[n].devices .fa, d.dataIndex = 2 := by decide
theorem witness_GetExpectedReturnsTheEntry :
    ((configured 94).phase ≠ .unconfigured ∧ 1 < (configured 94).cfg.bankSize .fa
        ∧ ((configured 94).exp.bank .fa)[1]? = some 0)
      ∧ (configured 94).cfg.bankSize .fa ≤ 2 := by decide

/-- Inputs of the right shapes for the small instance. -/
def inputs : Inputs := { primary := [1000, -2000], secondary := [3000], slew := true, steps := [5] }

/-- `CommandReady`, as a condition that evaluates. -/
theorem ready_of {c : Config} {ks : List CmdType}
    (h : ks.all (fun k => commandKnown c k && !(c.timeoutOf k).any (fun T => decide (4094999 < T.toNat))) = true) :
    ∀ k ∈ ks, CommandReady c k := by
  intro k hk
  have := List.all_eq_true.mp h k hk
  rw [Bool.and_eq_true] at this
  refine ⟨this.1, ?_⟩
  rintro ⟨T, hT, hl⟩
  rw [Option.mem_def.mp hT] at this
  simp [hl] at this

theorem admitted_loaded (c : Config) (h : c.nFA = 2) (h' : c.nHP = 1) :
    BuildAdmitted (loaded c) (containersOf fleet) inputs :=
  ⟨(by decide : Phase.configured ≠ Phase.unconfigured), rfl, rfl, h.symm, h'.symm⟩

theorem ready_small (n : Nat) (h : (small n).parametersLegal = true) :
    BuildReady (configured n) (containersOf fleet) .raised inputs :=
  ⟨h, admitted_loaded _ rfl rfl, ready_of rfl⟩

theorem witness_BuildWritesTheWholeSchedule :
    (BuildReady (configured 94) (containersOf fleet) .raised inputs ∧ variantOf 1 = some .raised
        ∧ scheduleWords (configured 94) (containersOf fleet) .raised ≤ (configured 94).cfg.capacity)
      ∧ (GatherDefined inputs v12 ∧ CommandReady Config.standard .broadcastForceDemand)
      ∧ (Profile.standard.hpBroadcast = .stepMotor ∧ inputs.steps.length = (small 94).nHP
        ∧ CommandReady (small 94) .broadcastStepMotor)
      ∧ (Config.standard.profiles.freezeSensor.hpBroadcast = .freeze
        ∧ CommandReady Config.standard .broadcastFreezeSensor) :=
  ⟨⟨ready_small 94 (by decide), rfl, by decide⟩,
    ⟨by unfold GatherDefined; decide, ready_of (ks := [.broadcastForceDemand]) (by decide +kernel) _ (by simp)⟩,
    ⟨rfl, rfl, ready_of (ks := [.broadcastStepMotor]) rfl _ (by simp)⟩, rfl,
    ready_of (ks := [.broadcastFreezeSensor]) rfl _ (by simp)⟩
theorem witness_BuildThatDoesNotFitOverruns :
    BuildReady (configured 93) (containersOf fleet) .raised inputs ∧ variantOf 1 = some .raised
      ∧ (configured 93).cfg.capacity < scheduleWords (configured 93) (containersOf fleet) .raised :=
  ⟨ready_small 93 (by decide), rfl, by decide⟩
/-- The small instance with a time-out just out of range, and without the entry of the LVDT report. -/
def slow : Config := { small 94 with timeout := (.reportLvdt, 4095000) :: testTimeout }
def lacking : Config := { small 94 with cmdTable := (small 94).cmdTable.filter (fun p => decide (p.1 ≠ .reportLvdt)) }

theorem witness_BuildOutsideItsDomainIsTurnedAway :
    (3 < (4#8).toNat ∧ opened.openBlock.isSome = true
        ∧ ¬ Shaped State.reset { inputs with primary := [], steps := List.replicate 6 0 })
      ∧ (BuildAdmitted (loaded lacking) (containersOf fleet) inputs ∧ variantOf 1 = some .raised
        ∧ .reportLvdt ∈ buildCommands (containersOf fleet) (lacking.profiles.profile .raised) (loaded lacking)
        ∧ CommandMissing lacking .reportLvdt)
      ∧ (BuildAdmitted (loaded slow) (containersOf fleet) inputs
        ∧ (∀ k ∈ buildCommands (containersOf fleet) (slow.profiles.profile .raised) (loaded slow),
          commandKnown slow k = true)
        ∧ .reportLvdt ∈ buildCommands (containersOf fleet) (slow.profiles.profile .raised) (loaded slow)
        ∧ TimeoutTooLong slow .reportLvdt) :=
  ⟨⟨by decide, by decide, by unfold Shaped; decide⟩, ⟨admitted_loaded _ rfl rfl, rfl, by decide, .inl rfl⟩,
    admitted_loaded _ rfl rfl, by decide, by decide, 4095000, rfl, by decide⟩
theorem witness_BuildFillsTheExpectedResponseTable :
    BuildReady (configured 94) (containersOf fleet) .raised inputs ∧ variantOf 1 = some .raised
      ∧ scheduleWords (configured 94) (containersOf fleet) .raised ≤ (configured 94).cfg.capacity
      ∧ topologySized (configured 94).cfg (containersOf fleet) = true ∧ DistinctIndices (containersOf fleet) :=
  ⟨ready_small 94 (by decide), rfl, by decide, by decide, by intro k; cases k <;> decide⟩
theorem witness_BuildEstablishesTheLayout :
    (configured 94).cfg.parametersLegal = true
      ∧ outOf (exec (.build 1 inputs.primary inputs.secondary inputs.slew inputs.steps) (configured 94)) = some .done := by
  decide +kernel

/-- The fleet as a `BUILD` leaves it: force demand at 3 and round-robin frame at 27 on subnet 0, step frame at 37 on subnet 1,
an LVDT slot at 79 on subnet 2. Of the buffer only these four words are listed. -/
def runningOn (c : Config) : State :=
  { loaded c with
    phase := .built, variant := .raised, length := 94, cursor := 94,
    mem := [(3, 0x13F0), (27, 0x120A), (37, 0x13F2), (79, 0x12A8)],
    base := { fa := [1, 1], hp := [2], hm := [3] }, exp := { fa := [2, 1], hp := [2], hm := [4] },
    sub := #v[{ SubnetRegs.initial with fdOffset := some 3, pollOffset := some 27, pollData := some 0 },
      { SubnetRegs.initial with stepOffset := some 37 },
      { SubnetRegs.initial with lvdtOffset := some 79, hmSched := [device .hm 2 84 0 false] },
      SubnetRegs.initial, SubnetRegs.initial] }

/-- The small instance's. -/
def running : State := runningOn (small 94)

/-- The same with every force actuator disabled. -/
def silenced : State := { running with disabled := { running.disabled with fa := [true, true] } }

theorem running_ready (s : State) (h : s = running ∨ s = silenced) : UpdateReady s (containersOf fleet) inputs := by
  rcases h with rfl | rfl <;>
    exact ⟨by decide, ⟨rfl, rfl, rfl, rfl⟩, by unfold SpansFit; decide, ready_of rfl, fun _ => by decide⟩

theorem witness_UpdateAppliesExactlyItsPatches :
    UpdateReady running (containersOf fleet) inputs ∧ PollsEnabled running (containersOf fleet) :=
  ⟨running_ready _ (.inl rfl), by unfold PollsEnabled; decide⟩
theorem witness_UpdateWithoutEnabledActuatorIsZeroCount :
    UpdateReady silenced (containersOf fleet) inputs ∧ ¬ PollsEnabled silenced (containersOf fleet) :=
  ⟨running_ready _ (.inr rfl), by unfold PollsEnabled; decide⟩
theorem witness_UpdateOutsideItsDomainIsTurnedAway :
    ¬ Shaped running { inputs with steps := [] }
      ∧ (UpdateAdmitted (runningOn lacking) (containersOf fleet) inputs
        ∧ (.reportLvdt ∈ updateCommands (runningOn lacking) ∧ CommandMissing lacking .reportLvdt)
        ∧ HasSlots (runningOn lacking) ∧ lacking.entry .reportLvdt = none)
      ∧ (UpdateAdmitted (runningOn slow) (containersOf fleet) inputs
        ∧ (∀ k ∈ updateCommands (runningOn slow), commandKnown slow k = true) ∧ slow.entry .reportLvdt ≠ none
        ∧ .reportLvdt ∈ updateCommands (runningOn slow) ∧ TimeoutTooLong slow .reportLvdt) :=
  ⟨by unfold Shaped; decide,
    ⟨⟨rfl, rfl, rfl, rfl⟩, ⟨by decide, .inl rfl⟩, ⟨2, rfl, by decide⟩, rfl⟩,
    ⟨rfl, rfl, rfl, rfl⟩, by decide, by decide, by decide, 4095000, rfl, by decide⟩
theorem witness_UpdateTouchesOnlyTheRewrittenFrames :
    outOf (exec (.update inputs.primary inputs.secondary inputs.slew inputs.steps) running) = some .done
      ∧ ∀ p ∈ rewriteSpans running, 0 < p.1 ∨ p.2 ≤ 0 := by decide +kernel
theorem running_offsets : ∀ i : Subnet,
    running.sub[i].fdOffset = (if i = 0 then some 3 else none)
      ∧ running.sub[i].stepOffset = (if i = 1 then some 37 else none)
      ∧ running.sub[i].pollOffset = (if i = 0 then some 27 else none)
      ∧ running.sub[i].lvdtOffset = (if i = 2 then some 79 else none) := by decide

theorem running_layout : Layout running := by
  refine ⟨by decide, by decide, by decide, ?_, ?_, ?_, ?_⟩ <;> intro i o ho
  · rw [(running_offsets i).1] at ho
    split at ho <;> cases ho
    rfl
  · rw [(running_offsets i).2.1] at ho
    split at ho <;> cases ho
    exact ⟨by decide, rfl⟩
  · rw [(running_offsets i).2.2.1] at ho
    split at ho <;> cases ho
    subst_vars
    exact ⟨_, rfl, device .fa 0 5 0 false, by decide, rfl⟩
  · rw [(running_offsets i).2.2.2] at ho
    split at ho <;> cases ho
    subst_vars
    exact ⟨device .hm 2 84 0 false, rfl, .inl rfl⟩

theorem witness_UpdateKeepsTheLayout :
    Layout running
      ∧ outOf (exec (.update inputs.primary inputs.secondary inputs.slew inputs.steps) running) = some .done :=
  ⟨running_layout, by decide +kernel⟩
/-- The fleet in an instance with the whole force demand in its table, as a `BUILD` whose profile has no force demand leaves
it. -/
def lawful : State :=
  let s := runningOn
    { small 94 with
      cmdTable := (.broadcastStepMotor, ⟨66, [⟨.counter, .u8, 1⟩, ⟨.steps 0, .i8, 1⟩], .broadcast⟩) :: testCmdTable }
  s.modSub 0 (fun r => { r with fdOffset := none })

theorem lawful_inv : Inv lawful := by decide +kernel

theorem witness_UpdateKeepsTheExpectedResponseAccount :
    Inv lawful ∧ lawful.topology = some (containersOf fleet) ∧ DistinctIndices (containersOf fleet)
      ∧ PollKnown (containersOf fleet) lawful ∧ Accounts true lawful
      ∧ outOf (exec (.update inputs.primary inputs.secondary inputs.slew inputs.steps) lawful) = some .done :=
  ⟨lawful_inv, rfl, by intro k; cases k <;> decide, by unfold PollKnown; decide, by unfold Accounts; decide,
    by decide +kernel⟩

/-- What one `UPDATE` leaves. -/
def cycled (s : State) : State :=
  (after (exec (.update inputs.primary inputs.secondary inputs.slew inputs.steps) s)).getD s

theorem cycles_cons {s : State} {ts : List State}
    (h : outOf (exec (.update inputs.primary inputs.secondary inputs.slew inputs.steps) s) = some .done)
    (hs : Cycles (cycled s) ts) : Cycles s (cycled s :: ts) := by
  refine ⟨⟨inputs, ?_⟩, hs⟩
  revert h
  unfold cycled outOf
  cases exec (.update inputs.primary inputs.secondary inputs.slew inputs.steps) s <;>
    simp [after]

theorem witness_RoundRobinIsFair :
    0 < 1 ∧ 154 < 155
      ∧ (running.topology = some (containersOf fleet) ∧ (containersOf fleet)[(0 : Subnet)].fa.length ≤ 255
        ∧ running.sub[(0 : Subnet)].pollOffset.isSome = true ∧ Cycles running [cycled running, cycled (cycled running)]
        ∧ [cycled running, cycled (cycled running)].length = (running.enabled (containersOf fleet) .fa 0).length) :=
  ⟨by decide, by decide, rfl, by decide, by decide,
    cycles_cons (by decide +kernel) (cycles_cons (by decide +kernel) trivial), by decide⟩
theorem witness_PhasesRefuseWhatTheyDoNotAdmit :
    State.reset.phase = .unconfigured ∧ (configured 94).phase ≠ .built ∧ (configured 94).phase ≠ .unconfigured := by
  decide
theorem witness_OnlyTheNamedOperationsWriteARegister : outOf (exec .readU8 (holding [0x1202])) = some (.result (.unsigned 1)) := by
  decide
theorem witness_RefusedOperationChangesNothing :
    exec .closeSubnet State.reset = .next { State.reset with out := .turnedAway .refused } := rfl
theorem witness_InvariantHoldsAfterReset : Config.standard.legal = true := by decide
theorem witness_EveryStepKeepsTheInvariant :
    Inv lawful ∧ outOf (step { lawful with requests := [.operation [0x03]] }) = some .done :=
  ⟨lawful_inv, by decide⟩
theorem witness_WindowIsTheValidRegion :
    (State.reset.window = .ok []) ∧ (holding [9]).window = .ok []
      ∧ ({ holding [9] with length := 1 } : State).window = .ok [9] := by decide

end Sys2Proof.Tests
end

section
/-! SUPPORT. What the decoder can answer, for the step: only a wire word is ever rejected as no wire word. -/

namespace Sys2Proof

/-- The answer is not the rejection of a wire word: what the port's byte lanes can answer (30_encoding R93, log 4). -/
def NotWireRejection {α : Type} (x : Except DecodeError α) : Prop := ∀ w : Word, x ≠ .error (.noWireWord w)

@[simp] theorem notWireRejection_ok {α : Type} (a : α) : NotWireRejection (.ok a : Except DecodeError α) := nofun

@[simp] theorem notWireRejection_unknownCode {α : Type} (code : Byte) :
    NotWireRejection (.error (.unknownCode code) : Except DecodeError α) := nofun

@[simp] theorem notWireRejection_missingOperand {α : Type} :
    NotWireRejection (.error .missingOperand : Except DecodeError α) := nofun

@[simp] theorem notWireRejection_badOperand {α : Type} (b : Byte) :
    NotWireRejection (.error (.badOperand b) : Except DecodeError α) := nofun

theorem NotWireRejection.bind {α β : Type} {x : Except DecodeError α} {f : α → Except DecodeError β}
    (hx : NotWireRejection x) (hf : ∀ a, NotWireRejection (f a)) : NotWireRejection (x >>= f) := by
  cases x with
  | ok a => exact hf a
  | error e =>
    intro w h
    cases h
    exact hx w rfl

/-! ## The readers of operand lanes -/

@[simp] theorem takeByte_notWireRejection (bs : List Byte) : NotWireRejection (takeByte bs) := by
  cases bs <;> simp [takeByte]

@[simp] theorem take16_notWireRejection (bs : List Byte) : NotWireRejection (take16 bs) :=
  .bind (takeByte_notWireRejection _) fun _ => .bind (takeByte_notWireRejection _) fun _ => notWireRejection_ok _

@[simp] theorem take32_notWireRejection (bs : List Byte) : NotWireRejection (take32 bs) :=
  .bind (take16_notWireRejection _) fun _ => .bind (take16_notWireRejection _) fun _ => notWireRejection_ok _

@[simp] theorem take64_notWireRejection (bs : List Byte) : NotWireRejection (take64 bs) :=
  .bind (take32_notWireRejection _) fun _ => .bind (take32_notWireRejection _) fun _ => notWireRejection_ok _

@[simp] theorem takeNat_notWireRejection (bs : List Byte) : NotWireRejection (takeNat bs) :=
  .bind (take64_notWireRejection _) fun _ => notWireRejection_ok _

@[simp] theorem takeInt_notWireRejection (bs : List Byte) : NotWireRejection (takeInt bs) :=
  .bind (take64_notWireRejection _) fun _ => notWireRejection_ok _

@[simp] theorem takeBit_notWireRejection (bs : List Byte) : NotWireRejection (takeBit bs) :=
  .bind (takeByte_notWireRejection _) fun ⟨b, bs⟩ => by
    dsimp only
    split <;> simp

@[simp] theorem takeClass_notWireRejection (bs : List Byte) : NotWireRejection (takeClass bs) :=
  .bind (takeByte_notWireRejection _) fun ⟨b, bs⟩ => by
    dsimp only
    split <;> simp

@[simp] theorem takeCmd_notWireRejection (bs : List Byte) : NotWireRejection (takeCmd bs) :=
  .bind (takeByte_notWireRejection _) fun ⟨b, bs⟩ => by
    dsimp only
    split <;> simp

theorem takeList_notWireRejection {α : Type} {p : Parse α} (hp : ∀ bs, NotWireRejection (p bs)) (n : Nat)
    (bs : List Byte) : NotWireRejection (takeList p n bs) := by
  induction n generalizing bs with
  | zero => exact notWireRejection_ok _
  | succ n ih => exact .bind (hp _) fun _ => .bind (ih _) fun _ => notWireRejection_ok _

@[simp] theorem takeCounted_notWireRejection {α : Type} {p : Parse α} (hp : ∀ bs, NotWireRejection (p bs))
    (bs : List Byte) : NotWireRejection (takeCounted p bs) :=
  .bind (take16_notWireRejection _) fun _ => takeList_notWireRejection hp _ _

@[simp] theorem takeMap_notWireRejection (bs : List Byte) : NotWireRejection (takeMap bs) :=
  .bind (takeByte_notWireRejection _) fun _ => .bind (takeByte_notWireRejection _) fun _ =>
  .bind (takeByte_notWireRejection _) fun _ => .bind (takeInt_notWireRejection _) fun _ =>
  .bind (takeNat_notWireRejection _) fun _ => .bind (takeInt_notWireRejection _) fun _ =>
  .bind (takeInt_notWireRejection _) fun _ => .bind (takeInt_notWireRejection _) fun _ =>
  .bind (takeBit_notWireRejection _) fun _ => notWireRejection_ok _

/-! ## Operations by their number of operands -/

section Args
variable {α β γ δ ε : Type} {p : Parse α} {q : Parse β} {r : Parse γ} {t : Parse δ} {u : Parse ε}

@[simp] theorem args0_notWireRejection (i : Instr) (bs : List Byte) : NotWireRejection (args0 i bs) :=
  notWireRejection_ok i

@[simp] theorem args1_notWireRejection {f : α → Instr} (hp : ∀ bs, NotWireRejection (p bs)) (bs : List Byte) :
    NotWireRejection (args1 f p bs) :=
  .bind (hp _) fun _ => notWireRejection_ok _

@[simp] theorem args2_notWireRejection {f : α → β → Instr} (hp : ∀ bs, NotWireRejection (p bs))
    (hq : ∀ bs, NotWireRejection (q bs)) (bs : List Byte) : NotWireRejection (args2 f p q bs) :=
  .bind (hp _) fun _ => args1_notWireRejection hq _

@[simp] theorem args3_notWireRejection {f : α → β → γ → Instr} (hp : ∀ bs, NotWireRejection (p bs))
    (hq : ∀ bs, NotWireRejection (q bs)) (hr : ∀ bs, NotWireRejection (r bs)) (bs : List Byte) :
    NotWireRejection (args3 f p q r bs) :=
  .bind (hp _) fun _ => args2_notWireRejection hq hr _

@[simp] theorem args4_notWireRejection {f : α → β → γ → δ → Instr} (hp : ∀ bs, NotWireRejection (p bs))
    (hq : ∀ bs, NotWireRejection (q bs)) (hr : ∀ bs, NotWireRejection (r bs)) (ht : ∀ bs, NotWireRejection (t bs))
    (bs : List Byte) : NotWireRejection (args4 f p q r t bs) :=
  .bind (hp _) fun _ => args3_notWireRejection hq hr ht _

@[simp] theorem args5_notWireRejection {f : α → β → γ → δ → ε → Instr} (hp : ∀ bs, NotWireRejection (p bs))
    (hq : ∀ bs, NotWireRejection (q bs)) (hr : ∀ bs, NotWireRejection (r bs)) (ht : ∀ bs, NotWireRejection (t bs))
    (hu : ∀ bs, NotWireRejection (u bs)) (bs : List Byte) : NotWireRejection (args5 f p q r t u bs) :=
  .bind (hp _) fun _ => args4_notWireRejection hq hr ht hu _

end Args

/-! ## The decoder -/

/-- Each code of R95 selects an operation whose operands come off the lanes; any other code is rejected by its own name. -/
theorem decodeCode_notWireRejection (code : Byte) (rest : List Byte) : NotWireRejection (decodeCode code rest) := by
  unfold decodeCode
  split <;> simp

theorem decodeOperation_notWireRejection (bytes : List Byte) : NotWireRejection (decodeOperation bytes) := by
  cases bytes with
  | nil => exact notWireRejection_missingOperand
  | cons code rest => exact decodeCode_notWireRejection code rest

/-- A row that asks the fixed bits to match rejects a word that does not match them as no wire word. -/
theorem wireRow_error {matched : Prop} [Decidable matched] {i : Instr} {w : Word} {e : DecodeError}
    (h : (if matched then .ok i else .error (.noWireWord w)) = Except.error e) : e = .noWireWord w := by
  split at h <;> cases h
  rfl

/-- The one way a wire word is rejected: its nibble names no kind, or the fixed bits of its row do not match. The four rows
that carry a duration have no other fixed bits and reject nothing. -/
theorem decodeWire_error {c : Config} {w : Word} {e : DecodeError} :
    decodeWire c w = .error e → e = .noWireWord w := by
  unfold decodeWire
  cases classify c w with
  | none =>
    rintro ⟨⟩
    rfl
  | some kind =>
    cases kind with
    | delayUs | delayMs | waitrxUs | waitrxMs => exact nofun
    | data | eof | timestamp | irqtrig | swtrig | rxEof => exact wireRow_error

end Sys2Proof

namespace Sys2Proof.Machine

/-! ## One step, by what is presented next -/

theorem step_idle {s : State} (h : s.requests = []) : step s = .next s := by
  simp [step, h]

theorem step_decoded {s : State} {r : Request} {rest : List Request} {i : Instr} (hs : s.requests = r :: rest)
    (hd : decode s.cfg r = .ok i) : step s = exec i { s with requests := rest } := by
  simp [step, hs, hd]

theorem step_noWireWord {s : State} {r : Request} {rest : List Request} {w : Word} (hs : s.requests = r :: rest)
    (hd : decode s.cfg r = .error (.noWireWord w)) : step s = .next { s with requests := rest } := by
  simp [step, hs, hd]

/-- Every rejection but that of a wire word is turned away at the port. -/
theorem step_turnedAway {s : State} {r : Request} {rest : List Request} {e : DecodeError} (hs : s.requests = r :: rest)
    (hd : decode s.cfg r = .error e) (he : ∀ w, e ≠ .noWireWord w) :
    step s = .next { s with requests := rest, out := .turnedAway .refused } := by
  cases e with
  | noWireWord w => exact absurd rfl (he w)
  | unknownCode code => simp [step, hs, hd, turnAway]
  | missingOperand => simp [step, hs, hd, turnAway]
  | badOperand b => simp [step, hs, hd, turnAway]

/-- Settles O5: a wire word is rejected only as `noWireWord`, and an operation never is. -/
theorem stepRunsTheDecodedInstruction : Obligations.StepRunsTheDecodedInstruction := by
  refine ⟨fun s r rest i hs hd => step_decoded hs hd, fun s hs => step_idle hs, ?wireWord, ?operation⟩
  case wireWord =>
    intro s w rest e hs hd
    obtain rfl := decodeWire_error hd
    exact step_noWireWord hs hd
  case operation =>
    intro s bytes rest e hs hd
    refine step_turnedAway hs hd fun w he => decodeOperation_notWireRejection bytes w ?_
    rw [← he]
    exact hd

end Sys2Proof.Machine
end

section
/-! SUPPORT. What the pieces of `BUILD` and `UPDATE` can do to the state, said once: each completes by a sequence of moves of
eight kinds. No legal configuration is assumed. -/

namespace Sys2Proof.Machine

/-! ## The moves -/

/-- The base count a device gets whose status frames `BUILD` composes: one, two or three frames (47_buslist R263 to R265). -/
def baseCount : DeviceClass → BitVec 3
  | .fa => 1
  | .hp => 2
  | .hm => 3

/-- The registers of subnet `i` are in order: the clauses of `Inv` about one subnet, the one about the round-robin cursor in
every phase. -/
structure RegsOk (T : Topology) (i : Subnet) (r : SubnetRegs) : Prop where
  poll : r.pollOffset.isSome = r.pollData.isSome
  slots : r.lvdtOffset = none → r.hmSched = []
  rr : r.rr.toNat < max 1 T[i].fa.length

/-- One change that a piece of `BUILD` (`building`) or of `UPDATE` makes to the state. -/
inductive Move (T : Topology) (building : Bool) (s : State) : State → Prop where
  /-- words at the cursor -/
  | words (ws : List Word) (hf : Fits s ws.length) : Move T building s (s.placed ws)
  /-- one word at an explicit index: the block length -/
  | poked (a : Nat) (w : Word) (hb : building = true) (ha : a < s.cfg.capacity) :
      Move T building s { s with mem := s.mem.write a w }
  /-- the cursor alone -/
  | sought (i : Index) : Move T building s (seek i s)
  /-- registers of one subnet, kept in order -/
  | regs (i : Subnet) (f : SubnetRegs → SubnetRegs) (hr : RegsOk T i s.sub[i] → RegsOk T i (f s.sub[i])) :
      Move T building s (s.modSub i f)
  /-- an expected count goes back to its base count -/
  | restored (k : DeviceClass) (j : Nat) : Move T building s (s.setExp k j (s.baseOf k j))
  /-- one response more than the base count is expected: of a round-robin target, or of a monitor with a real slot -/
  | expected (k : DeviceClass) (j : Nat) (hk : k ≠ .hp) : Move T building s (s.setExp k j (s.baseOf k j + 1))
  /-- a base count is set -/
  | based (k : DeviceClass) (j : Nat) (hb : building = true) : Move T building s (s.setBase k j (baseCount k))
  /-- a subnet block is opened or closed -/
  | block (b : Option OpenBlock) (n : Nat) (hb : building = true) :
      Move T building s { s with openBlock := b, freeCount := n }

/-- A sequence of moves. -/
abbrev Moves (T : Topology) (building : Bool) : State → State → Prop := Relation.ReflTransGen (Move T building)

theorem Move.moves {T : Topology} {b : Bool} {s t : State} (h : Move T b s t) : Moves T b s t := .single h

/-- What every entry's operation does by moves, the whole sequence does. -/
theorem runAll_moves {α : Type} {T : Topology} {b : Bool} {f : α → State → Run}
    (hf : ∀ x s t, f x s = .ok t → Moves T b s t) {xs : List α} {s t : State} (h : runAll f xs s = .ok t) :
    Moves T b s t :=
  runAll_keeps (Moves T b s) (fun x u v hu hv => hu.trans (hf x u v hv)) xs s t .refl h

/-! ## What no move changes -/

/-- The fields that neither `BUILD` nor `UPDATE` writes between its initialisation and its end. -/
structure Kept (s t : State) : Prop where
  cfg : t.cfg = s.cfg
  length : t.length = s.length
  bcast : t.bcast = s.bcast
  lvdtClock : t.lvdtClock = s.lvdtClock
  variant : t.variant = s.variant
  phase : t.phase = s.phase
  cfgError : t.cfgError = s.cfgError
  topology : t.topology = s.topology
  disabled : t.disabled = s.disabled
  requests : t.requests = s.requests

theorem Kept.refl (s : State) : Kept s s := ⟨rfl, rfl, rfl, rfl, rfl, rfl, rfl, rfl, rfl, rfl⟩

theorem Move.kept {T : Topology} {b : Bool} {r s t : State} (h : Move T b s t) (hk : Kept r s) : Kept r t := by
  obtain ⟨hcfg, hlen, hbc, hclk, hvar, hph, herr, htop, hdis, hreq⟩ := hk
  cases h <;> exact ⟨hcfg, hlen, hbc, hclk, hvar, hph, herr, htop, hdis, hreq⟩

theorem Moves.kept {T : Topology} {b : Bool} {s t : State} (h : Moves T b s t) : Kept s t := by
  induction h with
  | refl => exact .refl s
  | tail _ hm ih => exact hm.kept ih

/-- `UPDATE` writes no base count and opens or closes no block: the moves that do are `BUILD`'s. -/
theorem Move.update_keeps {T : Topology} {s t : State} (h : Move T false s t) :
    t.base = s.base ∧ t.openBlock = s.openBlock := by
  cases h with
  | words | sought | regs | restored | expected => exact ⟨rfl, rfl⟩
  | poked _ _ hb | based _ _ hb | block _ _ hb => cases hb

theorem Moves.update_keeps {T : Topology} {s t : State} (h : Moves T false s t) :
    t.base = s.base ∧ t.openBlock = s.openBlock := by
  induction h with
  | refl => exact ⟨rfl, rfl⟩
  | tail _ hm ih => exact ⟨hm.update_keeps.1.trans ih.1, hm.update_keeps.2.trans ih.2⟩

/-! ## Frames -/

theorem emit_moves {T : Topology} {b : Bool} {ws : List Word} {s t : State} (h : emit ws s = .ok t) :
    Moves T b s t := by
  obtain ⟨hf, rfl⟩ := emit_eq_ok.mp h
  exact (Move.words ws hf).moves

/-- A table-driven frame that completes has placed its words, under every configuration. -/
theorem frameCmd_placed {k : CmdType} {a : Byte} {bind : List PayloadField → Option (List Byte)} {s t : State}
    (h : frameCmd k a bind s = .ok t) : ∃ ws : List Word, Fits s ws.length ∧ t = s.placed ws := by
  obtain ⟨p, -, hp⟩ := bind_eq_ok.mp h
  obtain ⟨hf, rfl⟩ := frame_eq_ok.mp hp
  exact ⟨frameList s.cfg a p.function p.payload p.tail, by rwa [frameList_length], rfl⟩

theorem scheduled_moves {T : Topology} {b : Bool} {k : CmdType} {a : Byte} {env : FieldArgs} {s t : State}
    (h : scheduled k a env s = .ok t) : Moves T b s t := by
  obtain ⟨ws, hf, rfl⟩ := frameCmd_placed h
  exact (Move.words ws hf).moves

theorem hpFrame_moves {T : Topology} {b : Bool} {P : Profile} {inp : Inputs} {s t : State}
    (h : hpFrame P inp s = .ok t) : Moves T b s t := by
  unfold hpFrame at h
  split at h
  · exact scheduled_moves h
  · cases h
    exact .refl

theorem lvdtSlot_moves {T : Topology} {b : Bool} {d : ILCMap} {s t : State} (h : lvdtSlot d s = .ok t) :
    Moves T b s t := by
  unfold lvdtSlot at h
  split at h
  · obtain ⟨u, hu, h⟩ := bind_eq_ok.mp h
    cases h
    exact (scheduled_moves hu).tail (.expected .hm d.dataIndex nofun)
  · split at h
    · obtain ⟨u, hu, h⟩ := bind_eq_ok.mp h
      cases h
      exact (emit_moves hu).tail (.restored .hm d.dataIndex)
    · cases h

/-! ## Registers of one subnet -/

theorem State.modSub_modSub (s : State) (i : Subnet) (f g : SubnetRegs → SubnetRegs) :
    (s.modSub i f).modSub i g = s.modSub i (fun r => g (f r)) := by
  simp [State.modSub]

/-- Registers that a change leaves as they are. -/
theorem State.modSub_eq_self {s : State} {i : Subnet} {f : SubnetRegs → SubnetRegs} (h : f s.sub[i] = s.sub[i]) :
    s.modSub i f = s := by
  unfold State.modSub
  rw [h]
  simp

/-- The round-robin frame at the offset `o`: the offset and the target stand together once the frame is complete. -/
theorem pollFrame_moves {T : Topology} {b : Bool} {i : Subnet} {d : ILCMap} {o : Index} {s t : State}
    (h : pollFrame i d (s.modSub i (fun r => { r with pollOffset := some o })) = .ok t) : Moves T b s t := by
  obtain ⟨u, hu, h⟩ := bind_eq_ok.mp h
  obtain ⟨ws, hf, rfl⟩ := frameCmd_placed hu
  cases h
  have hcomm : ((s.modSub i (fun r => { r with pollOffset := some o })).placed ws).modSub i
        (fun r => { r with pollData := some d.dataIndex })
      = (s.placed ws).modSub i (fun r => { r with pollOffset := some o, pollData := some d.dataIndex }) :=
    State.modSub_modSub (s.placed ws) i (fun r => { r with pollOffset := some o }) _
  have hwords : Move T b s (s.placed ws) := .words ws hf
  have htarget : Move T b (s.placed ws)
      ((s.placed ws).modSub i (fun r => { r with pollOffset := some o, pollData := some d.dataIndex })) :=
    .regs i _ fun hr => ⟨rfl, hr.slots, hr.rr⟩
  rw [hcomm]
  exact (hwords.moves.tail htarget).tail (.expected .fa d.dataIndex nofun)

/-! ## BUILD, subnet by subnet -/

theorem openSubnet_moves {T : Topology} {i : Subnet} {s t : State} (h : openSubnet i s = .ok t) :
    Moves T true s t := by
  obtain ⟨-, hf, rfl⟩ := openSubnet_eq_ok.mp h
  exact (Move.words [s.cfg.subnetCode[i], 0, s.cfg.swtrigWord] hf).moves.tail (.block _ s.freeCount rfl)

theorem closeSubnet_moves {T : Topology} {s t : State} (h : closeSubnet s = .ok t) : Moves T true s t := by
  obtain ⟨b, -, hf, ha, rfl⟩ := closeSubnet_eq_ok.mp h
  exact ((Move.words [s.cfg.irqtrigWord] hf).moves.tail (.poked b.lenIndex.toNat _ rfl ha)).tail (.block none _ rfl)

theorem closeSubnet_openBlock {s t : State} (h : closeSubnet s = .ok t) : t.openBlock = none := by
  obtain ⟨b, -, -, -, rfl⟩ := closeSubnet_eq_ok.mp h
  rfl

theorem faStatusFrame_moves {T : Topology} {d : ILCMap} {s t : State} (h : faStatusFrame d s = .ok t) :
    Moves T true s t := by
  obtain ⟨u, hu, h⟩ := bind_eq_ok.mp h
  cases h
  exact (scheduled_moves hu).tail (.based .fa d.dataIndex rfl)

theorem hpStatusFrames_moves {T : Topology} {d : ILCMap} {s t : State} (h : hpStatusFrames d s = .ok t) :
    Moves T true s t := by
  obtain ⟨u, hu, h⟩ := bind_eq_ok.mp h
  obtain ⟨v, hv, h⟩ := bind_eq_ok.mp h
  cases h
  exact ((scheduled_moves hu).trans (scheduled_moves hv)).tail (.based .hp d.dataIndex rfl)

theorem hmStatusFrames_moves {T : Topology} {d : ILCMap} {s t : State} (h : hmStatusFrames d s = .ok t) :
    Moves T true s t := by
  obtain ⟨u, hu, h⟩ := bind_eq_ok.mp h
  obtain ⟨v, hv, h⟩ := bind_eq_ok.mp h
  obtain ⟨w, hw, h⟩ := bind_eq_ok.mp h
  cases h
  exact (((scheduled_moves hu).trans (scheduled_moves hv)).trans (scheduled_moves hw)).tail
    (.based .hm d.dataIndex rfl)

theorem buildForce_moves {T : Topology} {inp : Inputs} {i : Subnet} {s t : State}
    (h : buildForce T inp i s = .ok t) : Moves T true s t := by
  obtain ⟨u, hu, h⟩ := bind_eq_ok.mp h
  have hoff : Move T true s (s.modSub i (fun r => { r with fdOffset := some s.cursor })) :=
    .regs i _ fun hr => ⟨hr.poll, hr.slots, hr.rr⟩
  exact (hoff.moves.trans (scheduled_moves hu)).trans (emit_moves h)

theorem buildStatus_moves {T : Topology} {i : Subnet} {s t : State} (h : buildStatus T i s = .ok t) :
    Moves T true s t := by
  obtain ⟨u, hu, h⟩ := bind_eq_ok.mp h
  have hstatus : Moves T true s u := runAll_moves (fun _ _ _ => faStatusFrame_moves) hu
  split at h
  · exact hstatus.trans (pollFrame_moves h)
  · cases h
    exact hstatus

/-- A piece that is left out unless a condition holds. -/
theorem ite_moves {T : Topology} {b : Bool} {c : Prop} [Decidable c] {r : Run} {s t : State}
    (hr : ∀ t, r = .ok t → Moves T b s t) (h : (if c then r else .ok s) = .ok t) : Moves T b s t := by
  split at h
  · exact hr t h
  · cases h
    exact .refl

/-- A sequence whose first part is a choice completes exactly when the chosen part and the rest do. -/
theorem ite_bind_eq_ok {c : Prop} [Decidable c] {x y : Run} {f : State → Run} {t : State} :
    (if c then x >>= f else y >>= f) = .ok t ↔ ∃ u, (if c then x else y) = .ok u ∧ f u = .ok t := by
  split <;> exact bind_eq_ok

theorem faSection_moves {T : Topology} {P : Profile} {inp : Inputs} {i : Subnet} {s t : State}
    (h : faSection T P inp i s = .ok t) : Moves T true s t := by
  obtain ⟨u, hu, h⟩ := ite_bind_eq_ok.mp h
  exact (ite_moves (fun _ => buildForce_moves) hu).trans (ite_moves (fun _ => buildStatus_moves) h)

theorem hpSection_moves {T : Topology} {P : Profile} {inp : Inputs} {i : Subnet} {s t : State}
    (h : hpSection T P inp i s = .ok t) : Moves T true s t := by
  obtain ⟨u, hu, h⟩ := ite_bind_eq_ok.mp h
  have hoff : Move T true s (s.modSub i (fun r => { r with stepOffset := some s.cursor })) :=
    .regs i _ fun hr => ⟨hr.poll, hr.slots, hr.rr⟩
  have hbroadcast : Moves T true s u := by
    split at hu
    · cases hu
      exact .refl
    · exact hoff.moves.trans (hpFrame_moves hu)
  exact hbroadcast.trans (ite_moves (fun _ => runAll_moves fun _ _ _ => hpStatusFrames_moves) h)

theorem hmSection_moves {T : Topology} {P : Profile} {i : Subnet} {s t : State} (h : hmSection T P i s = .ok t) :
    Moves T true s t :=
  ite_moves (fun _ => runAll_moves fun _ _ _ => hmStatusFrames_moves) h

theorem lvdtSection_moves {T : Topology} {P : Profile} {i : Subnet} {s t : State}
    (h : lvdtSection T P i s = .ok t) : Moves T true s t := by
  have hlatch : Move T true s
      (s.modSub i (fun r => { r with lvdtOffset := some s.cursor, hmSched := s.enabled T .hm i })) :=
    .regs i _ fun hr => ⟨hr.poll, nofun, hr.rr⟩
  exact ite_moves (fun _ hu => hlatch.moves.trans (runAll_moves (fun _ _ _ => lvdtSlot_moves) hu)) h

/-- One subnet block of `BUILD` is a sequence of moves, and leaves no block open. -/
theorem buildSubnet_moves {T : Topology} {P : Profile} {inp : Inputs} {i : Subnet} {s t : State}
    (h : buildSubnet T P inp i s = .ok t) : Moves T true s t ∧ t.openBlock = none := by
  obtain ⟨s1, hopen, h⟩ := bind_eq_ok.mp h
  obtain ⟨s2, hfa, h⟩ := ite_bind_eq_ok.mp h
  obtain ⟨s3, hhp, h⟩ := ite_bind_eq_ok.mp h
  obtain ⟨s4, hhm, h⟩ := ite_bind_eq_ok.mp h
  obtain ⟨s5, hlvdt, hclose⟩ := ite_bind_eq_ok.mp h
  refine ⟨?_, closeSubnet_openBlock hclose⟩
  calc Moves T true s s1 := openSubnet_moves hopen
    Moves T true _ s2 := ite_moves (fun _ => faSection_moves) hfa
    Moves T true _ s3 := ite_moves (fun _ => hpSection_moves) hhp
    Moves T true _ s4 := ite_moves (fun _ => hmSection_moves) hhm
    Moves T true _ s5 := ite_moves (fun _ => lvdtSection_moves) hlvdt
    Moves T true _ t := closeSubnet_moves hclose

/-- Everything `BUILD` can do when it completes: from a loaded topology and no open block, moves between its initialisation
and its end, and no block is left open. -/
theorem buildSchedule_ok {v : Byte} {inp : Inputs} {s t : State} (h : buildSchedule v inp s = .ok t) :
    ∃ T x u, s.topology = some T ∧ s.openBlock = none ∧ Moves T true (buildInit x s) u ∧ u.openBlock = none
      ∧ t = buildFinish u := by
  unfold buildSchedule at h
  split at h
  · cases h
  · rename_i T x hT _ _
    split at h
    · rename_i hadm
      split at h
      · cases h
      · obtain ⟨u, hu, h⟩ := bind_eq_ok.mp h
        cases h
        refine ⟨T, x, u, hT, hadm.2, runAll_moves (fun _ _ _ hs => (buildSubnet_moves hs).1) hu, ?_, rfl⟩
        exact runAll_keeps (fun s => s.openBlock = none) (fun _ _ _ _ hs => (buildSubnet_moves hs).2) subnets
          (buildInit x s) u hadm.2 hu
    · cases h
  · cases h

/-! ## UPDATE, subnet by subnet -/

theorem updateForce_moves {T : Topology} {inp : Inputs} {i : Subnet} {s t : State}
    (h : updateForce T inp i s = .ok t) : Moves T false s t := by
  unfold updateForce at h
  split at h
  · exact (Move.sought _).moves.trans (scheduled_moves h)
  · cases h
    exact .refl

theorem restorePolled_moves {T : Topology} {b : Bool} (i : Subnet) (s : State) : Moves T b s (restorePolled i s) := by
  unfold restorePolled
  split
  · exact (Move.restored .fa _).moves
  · exact .refl

/-- The enabled devices of a class are among its devices. -/
theorem enabled_length_le (s : State) (T : Topology) (k : DeviceClass) (i : Subnet) :
    (s.enabled T k i).length ≤ (T[i].devices k).length :=
  List.length_filter_le _ _

/-- The round-robin cursor moves inside the enabled force actuators, the frame goes to the one it names. -/
theorem updatePoll_moves {T : Topology} {i : Subnet} {s t : State} (h : updatePoll T i s = .ok t) :
    Moves T false s t := by
  unfold updatePoll at h
  split at h
  · cases h
    exact .refl
  · rename_i off hoff
    obtain ⟨next, hnext, h⟩ := bind_eq_ok.mp h
    obtain ⟨hpos, hmod⟩ := rrInc_eq_ok.mp hnext
    have hlt : next < T[i].fa.length := by
      rw [hmod]
      exact (Nat.mod_lt _ hpos).trans_le (enabled_length_le s T .fa i)
    have hcursor : Move T false s (s.modSub i (fun r => { r with rr := BitVec.ofNat 8 next })) := by
      refine .regs i _ fun hr => ⟨hr.poll, hr.slots, ?_⟩
      have hle : (BitVec.ofNat 8 next).toNat ≤ next := by
        rw [BitVec.toNat_ofNat]
        exact Nat.mod_le _ _
      show (BitVec.ofNat 8 next).toNat < _
      omega
    dsimp only at h
    split at h
    · rename_i d _
      set u := restorePolled i (seek off (s.modSub i (fun r => { r with rr := BitVec.ofNat 8 next }))) with hu
      have hsame : u.modSub i (fun r => { r with pollOffset := some off }) = u :=
        State.modSub_eq_self (by simp [hu, ← hoff])
      rw [← hsame] at h
      exact ((hcursor.moves.tail (.sought off)).trans (restorePolled_moves i _)).trans (pollFrame_moves h)
    · cases h

theorem updateStep_moves {T : Topology} {P : Profile} {inp : Inputs} {i : Subnet} {s t : State}
    (h : updateStep P inp i s = .ok t) : Moves T false s t := by
  unfold updateStep at h
  split at h
  · exact (Move.sought _).moves.trans (hpFrame_moves h)
  · cases h
    exact .refl

theorem updateLvdt_moves {T : Topology} {i : Subnet} {s t : State} (h : updateLvdt i s = .ok t) :
    Moves T false s t := by
  unfold updateLvdt at h
  split at h
  · exact (Move.sought _).moves.trans (runAll_moves (fun _ _ _ => lvdtSlot_moves) h)
  · cases h
    exact .refl

theorem updateSubnet_moves {T : Topology} {P : Profile} {inp : Inputs} {i : Subnet} {s t : State}
    (h : updateSubnet T P inp i s = .ok t) : Moves T false s t := by
  obtain ⟨s1, hforce, h⟩ := bind_eq_ok.mp h
  obtain ⟨s2, hpoll, h⟩ := bind_eq_ok.mp h
  obtain ⟨s3, hstep, hlvdt⟩ := bind_eq_ok.mp h
  calc Moves T false s s1 := updateForce_moves hforce
    Moves T false _ s2 := updatePoll_moves hpoll
    Moves T false _ s3 := updateStep_moves hstep
    Moves T false _ t := updateLvdt_moves hlvdt

/-- Everything `UPDATE` can do when it completes: from a built schedule, moves between its initialisation and its end. -/
theorem updateSchedule_ok {inp : Inputs} {s t : State} (h : updateSchedule inp s = .ok t) :
    ∃ T u, s.phase = .built ∧ s.topology = some T ∧ Moves T false (updateInit s) u ∧ t = updateFinish u := by
  unfold updateSchedule at h
  split at h
  · rename_i T hphase hT
    split at h
    · split at h
      · cases h
      · obtain ⟨u, hu, h⟩ := bind_eq_ok.mp h
        cases h
        exact ⟨T, u, hphase, hT, runAll_moves (fun _ _ _ => updateSubnet_moves) hu, rfl⟩
    · cases h
  · cases h

end Sys2Proof.Machine
end

section
/-! SUPPORT. What one instruction can do when it answers a next state, said once for all 61. -/

namespace Sys2Proof.Machine

/-- The effects an instruction can have: what it may change, and what it must have met to change it. -/
inductive Effect (s : State) : Instr → State → Prop where
  /-- nothing but the port's answer -/
  | answered (i : Instr) (o : PortOut) : Effect s i { s with out := o }
  /-- the cursor alone -/
  | sought (i : Instr) (c : Index) (o : PortOut) (hi : writesCursor i = true) : Effect s i { seek c s with out := o }
  /-- words at the cursor, and the cursor past them -/
  | wrote (i : Instr) (ws : List Word) (hi : writesCursor i = true ∧ writesWords i = true) (hf : Fits s ws.length) :
      Effect s i { s.placed ws with out := .done }
  /-- `POKE` (40_cursor_ops R118) -/
  | poked (a : Index) (w : Word) (ha : a.toNat < s.cfg.capacity) :
      Effect s (.poke a w) { s with mem := s.mem.write a.toNat w, out := .done }
  /-- `SET_LENGTH` (40_cursor_ops R115) -/
  | lengthSet (n : Index) : Effect s (.setLength n) { s with length := n, out := .done }
  /-- `OPEN_SUBNET` (47_buslist R250) -/
  | opened (v : Byte) (b : OpenBlock) (ws : List Word) (hf : Fits s ws.length) :
      Effect s (.openSubnet v) { s.placed ws with openBlock := some b, out := .done }
  /-- `CLOSE_SUBNET` (47_buslist R251): a word at the cursor, and the block length at its index -/
  | closed (ws : List Word) (a : Nat) (w : Word) (n : Nat) (hf : Fits s ws.length) (ha : a < s.cfg.capacity) :
      Effect s .closeSubnet
        { s.placed ws with
          mem := (s.placed ws).mem.write a w, openBlock := none, freeCount := n, out := .done }
  /-- `LOAD_TOPOLOGY` of a valid topology (47_buslist R255) -/
  | accepted (l : List ILCMap) (o : PortOut) (hl : topologyValid s.cfg l = true) :
      Effect s (.loadTopology l) { acceptTopology l s with out := o }
  /-- `LOAD_TOPOLOGY` of any other (47_buslist R255) -/
  | rejected (l : List ILCMap) (o : PortOut) : Effect s (.loadTopology l) { rejectTopology s with out := o }
  /-- `SET_DISABLED` (47_buslist R256) -/
  | disabledSet (k : DeviceClass) (j : Nat) (b : Bool) :
      Effect s (.setDisabled k j b) { s with disabled := s.disabled.put k j b, out := .done }
  /-- `BUILD` (47_buslist R260) -/
  | built (v : Byte) (p q : List Int) (b : Bool) (l : List Int) (T : Topology) (x : Variant) (u : State)
      (hT : s.topology = some T) (hopen : s.openBlock = none) (hm : Moves T true (buildInit x s) u)
      (hclosed : u.openBlock = none) : Effect s (.build v p q b l) { buildFinish u with out := .done }
  /-- `UPDATE` (47_buslist R270) -/
  | updated (p q : List Int) (b : Bool) (l : List Int) (T : Topology) (u : State) (hphase : s.phase = .built)
      (hT : s.topology = some T) (hm : Moves T false (updateInit s) u) :
      Effect s (.update p q b l) { updateFinish u with out := .done }

/-! ## From the shape of a meaning to its effect -/

/-- An operation without a result has the effect it completes with, if it is not turned away. -/
theorem Effect.of_finish {i : Instr} {s t : State} {r : Run} (h : finish s r = .next t)
    (hr : ∀ u, r = .ok u → Effect s i { u with out := .done }) : Effect s i t := by
  obtain ⟨u, hu, rfl⟩ | ⟨e, -, rfl⟩ := finish_next.mp h
  · exact hr u hu
  · exact .answered i (.turnedAway e)

/-- An operation with a result has the effect it completes with, if it is not turned away. -/
theorem Effect.of_answer {i : Instr} {s t : State} {r : Except Stop (Result × State)} (h : answer s r = .next t)
    (hr : ∀ v u, r = .ok (v, u) → Effect s i { u with out := .result v }) : Effect s i t := by
  obtain ⟨v, u, hu, rfl⟩ | ⟨e, -, rfl⟩ := answer_next.mp h
  · exact hr v u hu
  · exact .answered i (.turnedAway e)

/-- An operation that computes its result from the state and leaves the state as it is. -/
theorem Effect.of_result {i : Instr} {s t : State} {r : Result} (h : answer s (.ok (r, s)) = .next t) :
    Effect s i t :=
  .of_answer h fun _ _ hu => by
    cases hu
    exact .answered i _

/-- The same, when the operand may be turned away. -/
theorem Effect.of_result_ite {i : Instr} {s t : State} {c : Prop} [Decidable c] {r : Result} {e : Stop}
    (h : answer s (if c then .ok (r, s) else .error e) = .next t) : Effect s i t :=
  .of_answer h fun _ _ hu => by
    split at hu
    · cases hu
      exact .answered i _
    · cases hu

/-- A writer. -/
theorem Effect.of_emit {i : Instr} {ws : List Word} {s t : State} (hi : writesCursor i = true ∧ writesWords i = true)
    (h : finish s (emit ws s) = .next t) : Effect s i t :=
  .of_finish h fun u hu => by
    obtain ⟨hf, rfl⟩ := emit_eq_ok.mp hu
    exact .wrote i ws hi hf

/-- A writer of a duration, which may be out of range (43_control_words R166). -/
theorem Effect.of_emitDuration {i : Instr} {word : BitVec 32 → Word} {T : BitVec 32} {s t : State}
    (hi : writesCursor i = true ∧ writesWords i = true) (h : finish s (emitDuration word T s) = .next t) :
    Effect s i t :=
  .of_finish h fun u hu => by
    unfold emitDuration at hu
    split at hu
    · obtain ⟨hf, rfl⟩ := emit_eq_ok.mp hu
      exact .wrote i _ hi hf
    · cases hu

/-- A frame with its bytes given (45_frame_factory R203, R204). -/
theorem Effect.of_genericFrame {i : Instr} {tail : Tail} {a f : Byte} {d : List Byte} {T : BitVec 32} {s t : State}
    (hi : writesCursor i = true ∧ writesWords i = true) (h : finish s (genericFrame tail a f d T s) = .next t) :
    Effect s i t :=
  .of_finish h fun u hu => by
    unfold genericFrame at hu
    split at hu
    · cases hu
    · split at hu
      · obtain ⟨hf, rfl⟩ := frame_eq_ok.mp hu
        exact .wrote i _ hi (by rwa [frameList_length])
      · cases hu

theorem fetchBytes_cursor {n : Nat} {s t : State} {bs : List Byte} (h : fetchBytes n s = .ok (bs, t)) :
    ∃ c, t = seek c s := by
  obtain ⟨⟨ws, u⟩, hu, h⟩ := bind_eq_ok.mp h
  obtain ⟨-, -, rfl⟩ := fetch_eq_ok.mp hu
  cases h
  exact ⟨_, rfl⟩

/-- A typed reader. -/
theorem Effect.of_fetchBytes {i : Instr} {n : Nat} {value : List Byte → Result} {s t : State}
    (hi : writesCursor i = true)
    (h : answer s (do let (bs, u) ← fetchBytes n s; .ok (value bs, u)) = .next t) : Effect s i t :=
  .of_answer h fun _ u hu => by
    obtain ⟨⟨bs, w⟩, hw, hu⟩ := bind_eq_ok.mp hu
    obtain ⟨c, rfl⟩ := fetchBytes_cursor hw
    cases hu
    exact .sought i c _ hi

/-! ## The operations with an effect of their own -/

theorem execReadRaw_effect {s t : State} (h : execReadRaw s = .next t) : Effect s .readRaw t :=
  .of_answer h fun _ u hu => by
    obtain ⟨⟨ws, w⟩, hw, hu⟩ := bind_eq_ok.mp hu
    obtain ⟨-, -, rfl⟩ := fetch_eq_ok.mp hw
    cases hu
    exact .sought .readRaw _ _ rfl

theorem execEndOfFrame_effect {s t : State} (h : execEndOfFrame s = .next t) : Effect s .endOfFrame t :=
  .of_answer h fun _ u hu => by
    obtain ⟨ws, -, hu⟩ := bind_eq_ok.mp hu
    cases hu
    exact .answered .endOfFrame _

theorem execIncIndex_effect {n : BitVec 16} {s t : State} (h : execIncIndex n s = .next t) :
    Effect s (.incIndex n) t :=
  .of_finish h fun u hu => by
    split at hu
    · cases hu
      exact .sought (.incIndex n) _ .done rfl
    · cases hu

theorem execPoke_effect {a : Index} {w : Word} {s t : State} (h : execPoke a w s = .next t) :
    Effect s (.poke a w) t :=
  .of_finish h fun u hu => by
    unfold memWrite at hu
    split at hu
    · rename_i hfit
      cases hu
      exact .poked a w hfit
    · cases hu

theorem execWriteCrc_effect {n : BitVec 16} {s t : State} (h : execWriteCrc n s = .next t) :
    Effect s (.writeCrc n) t :=
  .of_finish h fun u hu => by
    obtain ⟨-, hf, ws, -, rfl⟩ := writeCrc_eq_ok.mp hu
    exact .wrote (.writeCrc n) _ ⟨rfl, rfl⟩ (by simpa [crcPair] using hf)

theorem execFrameCmd_effect {k : CmdType} {a : Byte} {args : List Int} {s t : State}
    (h : execFrameCmd k a args s = .next t) : Effect s (.frameCmd k a args) t :=
  .of_finish h fun u hu => by
    obtain ⟨ws, hf, rfl⟩ := frameCmd_placed hu
    exact .wrote (.frameCmd k a args) ws ⟨rfl, rfl⟩ hf

theorem execRrInc_effect {index count : Nat} {s t : State} (h : execRrInc index count s = .next t) :
    Effect s (.rrInc index count) t :=
  .of_answer h fun _ u hu => by
    obtain ⟨r, -, hu⟩ := bind_eq_ok.mp hu
    cases hu
    exact .answered (.rrInc index count) (.result (.unsigned r))

theorem execOpenSubnet_effect {v : Byte} {s t : State} (h : execOpenSubnet v s = .next t) :
    Effect s (.openSubnet v) t :=
  .of_finish h fun u hu => by
    split at hu
    · obtain ⟨-, hf, rfl⟩ := openSubnet_eq_ok.mp hu
      exact .opened v _ _ hf
    · cases hu

theorem execCloseSubnet_effect {s t : State} (h : execCloseSubnet s = .next t) : Effect s .closeSubnet t :=
  .of_finish h fun u hu => by
    obtain ⟨b, -, hf, ha, rfl⟩ := closeSubnet_eq_ok.mp hu
    exact .closed [s.cfg.irqtrigWord] b.lenIndex.toNat _ _ hf ha

theorem execLoadTopology_effect {l : List ILCMap} {s t : State} (h : execLoadTopology l s = .next t) :
    Effect s (.loadTopology l) t :=
  .of_answer h fun _ u hu => by
    split at hu
    · rename_i hl
      cases hu
      exact .accepted l (.result (.bit true)) hl
    · cases hu
      exact .rejected l (.result (.bit false))

theorem execSetDisabled_effect {k : DeviceClass} {j : Nat} {b : Bool} {s t : State}
    (h : execSetDisabled k j b s = .next t) : Effect s (.setDisabled k j b) t :=
  .of_finish h fun u hu => by
    split at hu
    · cases hu
    · cases hu
    · split at hu
      · cases hu
        exact .disabledSet k j b
      · cases hu

theorem execBuild_effect {v : Byte} {p q : List Int} {b : Bool} {l : List Int} {s t : State}
    (h : execBuild v p q b l s = .next t) : Effect s (.build v p q b l) t :=
  .of_finish h fun r hr => by
    obtain ⟨T, x, u, hT, hopen, hm, hclosed, rfl⟩ := buildSchedule_ok hr
    exact .built v p q b l T x u hT hopen hm hclosed

theorem execUpdate_effect {p q : List Int} {b : Bool} {l : List Int} {s t : State}
    (h : execUpdate p q b l s = .next t) : Effect s (.update p q b l) t :=
  .of_finish h fun r hr => by
    obtain ⟨T, u, hphase, hT, hm, rfl⟩ := updateSchedule_ok hr
    exact .updated p q b l T u hphase hT hm

/-! ## All instructions -/

/-- Everything an instruction can do when it answers a next state. -/
theorem exec_effect {i : Instr} {s t : State} (h : exec i s = .next t) : Effect s i t := by
  cases i with
  | wData | wEof | wTimestamp | wDelayUs | wDelayMs | wWaitrxUs | wIrqtrig | wSwtrig | wWaitrxMs | wRxEof =>
    cases h
    exact .answered _ s.out
  | getIndex | getLength | bcastInc | endOfBuffer => exact .of_result h
  | lvdtStep | getExpected => exact .of_result_ite h
  | setIndex | reset =>
    cases h
    exact .sought _ _ .done rfl
  | setLength n =>
    cases h
    exact .lengthSet n
  | writeRaw | writeU8 | writeI8 | writeI16 | writeI24 | writeI32 | writeU16 | writeU32 | writeSgl | writeDbl
  | writeEof | writeTimestamp | writeSwtrigger | writeIrqtrigger | frameNop => exact .of_emit ⟨rfl, rfl⟩ h
  | writeDelay | writeWaitrx => exact .of_emitDuration ⟨rfl, rfl⟩ h
  | frameUnicast | frameBroadcast => exact .of_genericFrame ⟨rfl, rfl⟩ h
  | readU8 | readI8 | readI16 | readI24 | readI32 | readU16 | readU32 | readSgl | readDbl =>
    exact .of_fetchBytes rfl h
  | readCrc => exact .of_fetchBytes (value := fun bs => unsignedBE bs.reverse) rfl h
  | readRaw => exact execReadRaw_effect h
  | incIndex => exact execIncIndex_effect h
  | poke => exact execPoke_effect h
  | writeCrc => exact execWriteCrc_effect h
  | endOfFrame => exact execEndOfFrame_effect h
  | frameCmd => exact execFrameCmd_effect h
  | rrInc => exact execRrInc_effect h
  | openSubnet => exact execOpenSubnet_effect h
  | closeSubnet => exact execCloseSubnet_effect h
  | loadTopology => exact execLoadTopology_effect h
  | setDisabled => exact execSetDisabled_effect h
  | build => exact execBuild_effect h
  | update => exact execUpdate_effect h

end Sys2Proof.Machine
end

section
/-! Which operations write the buffer and each register: one lemma a register, read off the effects. -/

namespace Sys2Proof.Machine

theorem Effect.cfg_eq {i : Instr} {s t : State} (h : Effect s i t) : t.cfg = s.cfg := by
  cases h with
  | built _ _ _ _ _ _ _ _ _ _ hm => exact hm.kept.cfg
  | updated _ _ _ _ _ _ _ _ hm => exact hm.kept.cfg
  | _ => rfl

theorem Effect.requests_eq {i : Instr} {s t : State} (h : Effect s i t) : t.requests = s.requests := by
  cases h with
  | built _ _ _ _ _ _ _ _ _ _ hm => exact hm.kept.requests
  | updated _ _ _ _ _ _ _ _ hm => exact hm.kept.requests
  | _ => rfl

theorem Effect.mem_eq {i : Instr} {s t : State} (h : Effect s i t) (hi : writesWords i = false) : t.mem = s.mem := by
  cases h with
  | answered | sought | lengthSet | accepted | rejected | disabledSet => rfl
  | wrote _ _ hw => exact absurd (hw.2.symm.trans hi) nofun
  | poked | opened | closed | built | updated => cases hi

theorem Effect.cursor_eq {i : Instr} {s t : State} (h : Effect s i t) (hi : writesCursor i = false) :
    t.cursor = s.cursor := by
  cases h with
  | answered | poked | lengthSet | accepted | rejected | disabledSet => rfl
  | sought _ _ _ hw => exact absurd (hw.symm.trans hi) nofun
  | wrote _ _ hw => exact absurd (hw.1.symm.trans hi) nofun
  | opened | closed | built | updated => cases hi

theorem Effect.length_eq {i : Instr} {s t : State} (h : Effect s i t) (hset : ∀ n, i ≠ .setLength n)
    (hbuild : ∀ v p q b l, i ≠ .build v p q b l) : t.length = s.length := by
  cases h with
  | lengthSet n => exact absurd rfl (hset n)
  | built v p q b l => exact absurd rfl (hbuild v p q b l)
  | updated _ _ _ _ _ _ _ _ hm => exact hm.kept.length
  | _ => rfl

theorem Effect.bcast_eq {i : Instr} {s t : State} (h : Effect s i t) (hupdate : ∀ p q b l, i ≠ .update p q b l) :
    t.bcast = s.bcast := by
  cases h with
  | built _ _ _ _ _ _ _ _ _ _ hm => exact hm.kept.bcast
  | updated p q b l => exact absurd rfl (hupdate p q b l)
  | _ => rfl

theorem Effect.variant_base_eq {i : Instr} {s t : State} (h : Effect s i t)
    (hbuild : ∀ v p q b l, i ≠ .build v p q b l) : t.variant = s.variant ∧ t.base = s.base := by
  cases h with
  | built v p q b l => exact absurd rfl (hbuild v p q b l)
  | updated _ _ _ _ _ _ _ _ hm => exact ⟨hm.kept.variant, hm.update_keeps.1⟩
  | _ => exact ⟨rfl, rfl⟩

theorem Effect.schedule_eq {i : Instr} {s t : State} (h : Effect s i t)
    (hbuild : ∀ v p q b l, i ≠ .build v p q b l) (hupdate : ∀ p q b l, i ≠ .update p q b l) :
    t.sub = s.sub ∧ t.lvdtClock = s.lvdtClock ∧ t.exp = s.exp := by
  cases h with
  | built v p q b l => exact absurd rfl (hbuild v p q b l)
  | updated p q b l => exact absurd rfl (hupdate p q b l)
  | _ => exact ⟨rfl, rfl, rfl⟩

theorem Effect.phase_eq {i : Instr} {s t : State} (h : Effect s i t) (hload : ∀ l, i ≠ .loadTopology l)
    (hbuild : ∀ v p q b l, i ≠ .build v p q b l) : t.phase = s.phase := by
  cases h with
  | accepted l | rejected l => exact absurd rfl (hload l)
  | built v p q b l => exact absurd rfl (hbuild v p q b l)
  | updated _ _ _ _ _ _ _ _ hm => exact hm.kept.phase
  | _ => rfl

theorem Effect.topology_cfgError_eq {i : Instr} {s t : State} (h : Effect s i t)
    (hload : ∀ l, i ≠ .loadTopology l) : t.topology = s.topology ∧ t.cfgError = s.cfgError := by
  cases h with
  | accepted l | rejected l => exact absurd rfl (hload l)
  | built _ _ _ _ _ _ _ _ _ _ hm => exact ⟨hm.kept.topology, hm.kept.cfgError⟩
  | updated _ _ _ _ _ _ _ _ hm => exact ⟨hm.kept.topology, hm.kept.cfgError⟩
  | _ => exact ⟨rfl, rfl⟩

theorem Effect.disabled_eq {i : Instr} {s t : State} (h : Effect s i t) (hload : ∀ l, i ≠ .loadTopology l)
    (hset : ∀ k j b, i ≠ .setDisabled k j b) : t.disabled = s.disabled := by
  cases h with
  | accepted l | rejected l => exact absurd rfl (hload l)
  | disabledSet k j b => exact absurd rfl (hset k j b)
  | built _ _ _ _ _ _ _ _ _ _ hm => exact hm.kept.disabled
  | updated _ _ _ _ _ _ _ _ hm => exact hm.kept.disabled
  | _ => rfl

/-- `BUILD` opens and closes five blocks of its own: it starts with none open and leaves none open. -/
theorem Effect.openBlock_eq {i : Instr} {s t : State} (h : Effect s i t) (hopen : ∀ v, i ≠ .openSubnet v)
    (hclose : i ≠ .closeSubnet) : t.openBlock = s.openBlock := by
  cases h with
  | opened v => exact absurd rfl (hopen v)
  | closed => exact absurd rfl hclose
  | built _ _ _ _ _ _ _ _ _ hnone _ hclosed => exact hclosed.trans hnone.symm
  | updated _ _ _ _ _ _ _ _ hm => exact hm.update_keeps.2
  | _ => rfl

/-- Settles O53: every instruction has one of the effects, and each effect names what it writes. -/
theorem onlyTheNamedOperationsWriteARegister : Obligations.OnlyTheNamedOperationsWriteARegister := by
  intro i s t h
  have he := exec_effect h
  exact ⟨he.cfg_eq, he.requests_eq, he.mem_eq, he.cursor_eq, he.length_eq, he.bcast_eq, he.variant_base_eq,
    he.schedule_eq, he.phase_eq, he.topology_cfgError_eq, he.disabled_eq, he.openBlock_eq⟩

end Sys2Proof.Machine
end

section
/-! The machine invariant: what it says of the counts and of one subnet's registers, kept by every move, then by every
effect, then by every step. -/

namespace Sys2Proof.Machine

/-! ## Banks -/

theorem banksSized_iff {α : Type} {c : Config} {b : Banks α} :
    banksSized c b = true ↔ ∀ k, (b.bank k).length = c.bankSize k := by
  simp only [banksSized, Bool.and_eq_true, decide_eq_true_eq]
  constructor
  · rintro ⟨⟨hfa, hhp⟩, hhm⟩ (_ | _ | _)
    exacts [hfa, hhp, hhm]
  · exact fun h => ⟨⟨h .fa, h .hp⟩, h .hm⟩

theorem Banks.bank_put_length {α : Type} (b : Banks α) (k l : DeviceClass) (j : Nat) (x : α) :
    ((b.put k j x).bank l).length = (b.bank l).length := by
  by_cases h : l = k
  · subst h
    simp
  · rw [Banks.bank_put_of_ne b j x h]

theorem Banks.mem_bank_put {α : Type} {b : Banks α} {k l : DeviceClass} {j : Nat} {x y : α}
    (h : y ∈ (b.put k j x).bank l) : (l = k ∧ y = x) ∨ y ∈ b.bank l := by
  by_cases hl : l = k
  · subst hl
    rw [Banks.bank_put_self] at h
    exact (List.mem_or_eq_of_mem_set h).symm.imp_left fun hy => ⟨rfl, hy⟩
  · rw [Banks.bank_put_of_ne b j x hl] at h
    exact .inr h

theorem Banks.bank_fill {α : Type} (c : Config) (x : α) (k : DeviceClass) :
    (Banks.fill c x).bank k = List.replicate (c.bankSize k) x := by
  cases k <;> rfl

/-! ## Counts -/

/-- The most responses expected of a device in one cycle: its status frames, and for a force actuator the round-robin frame,
for a monitor a real LVDT slot (47_buslist R280). -/
def expMost : DeviceClass → Nat
  | .fa => 2
  | .hp => 2
  | .hm => 4

/-- The clauses of `Inv` about the expected-response table `e` and the base counts `b`, class by class. -/
structure CountsOk (c : Config) (e b : Banks (BitVec 3)) : Prop where
  expSize : ∀ k, (e.bank k).length = c.bankSize k
  baseSize : ∀ k, (b.bank k).length = c.bankSize k
  baseMost : ∀ k, ∀ x ∈ b.bank k, x.toNat ≤ (baseCount k).toNat
  expMost : ∀ k, ∀ x ∈ e.bank k, x.toNat ≤ expMost k

theorem bankBelow_iff {xs : List (BitVec 3)} {n : Nat} : bankBelow xs n = true ↔ ∀ x ∈ xs, x.toNat ≤ n := by
  simp [bankBelow]

theorem countsOk_iff {c : Config} {e b : Banks (BitVec 3)} :
    CountsOk c e b ↔ banksSized c e = true ∧ banksSized c b = true
      ∧ (bankBelow b.fa 1 && bankBelow b.hp 2 && bankBelow b.hm 3) = true
      ∧ (bankBelow e.fa 2 && bankBelow e.hp 2 && bankBelow e.hm 4) = true := by
  simp only [banksSized_iff, Bool.and_eq_true, bankBelow_iff]
  constructor
  · rintro ⟨hes, hbs, hb, he⟩
    exact ⟨hes, hbs, ⟨⟨hb .fa, hb .hp⟩, hb .hm⟩, ⟨⟨he .fa, he .hp⟩, he .hm⟩⟩
  · rintro ⟨hes, hbs, ⟨⟨hbfa, hbhp⟩, hbhm⟩, ⟨⟨hefa, hehp⟩, hehm⟩⟩
    refine ⟨hes, hbs, ?_, ?_⟩ <;> rintro (_ | _ | _)
    exacts [hbfa, hbhp, hbhm, hefa, hehp, hehm]

/-- All counts 0, as `BUILD` starts (47_buslist R261). -/
theorem countsOk_fill (c : Config) : CountsOk c (Banks.fill c 0) (Banks.fill c 0) := by
  have hsize : ∀ k, ((Banks.fill c (0 : BitVec 3)).bank k).length = c.bankSize k := fun k => by
    rw [Banks.bank_fill, List.length_replicate]
  have hzero : ∀ n k, ∀ x ∈ (Banks.fill c (0 : BitVec 3)).bank k, x.toNat ≤ n := by
    intro n k x hx
    rw [Banks.bank_fill] at hx
    rw [List.eq_of_mem_replicate hx]
    exact Nat.zero_le n
  exact ⟨hsize, hsize, fun k => hzero _ k, fun k => hzero _ k⟩

theorem CountsOk.baseOf_le {s : State} {c : Config} {e : Banks (BitVec 3)} (h : CountsOk c e s.base)
    (k : DeviceClass) (j : Nat) : (s.baseOf k j).toNat ≤ (baseCount k).toNat := by
  unfold State.baseOf
  cases hx : (s.base.bank k)[j]? with
  | none => exact Nat.zero_le _
  | some x => exact h.baseMost k x (List.mem_of_getElem? hx)

theorem CountsOk.putExp {c : Config} {e b : Banks (BitVec 3)} (h : CountsOk c e b) {k : DeviceClass} (j : Nat)
    {n : BitVec 3} (hn : n.toNat ≤ Machine.expMost k) : CountsOk c (e.put k j n) b where
  expSize l := (Banks.bank_put_length e k l j n).trans (h.expSize l)
  baseSize := h.baseSize
  baseMost := h.baseMost
  expMost l x hx := by
    obtain ⟨rfl, rfl⟩ | hx := Banks.mem_bank_put hx
    · exact hn
    · exact h.expMost l x hx

theorem CountsOk.putBase {c : Config} {e b : Banks (BitVec 3)} (h : CountsOk c e b) (k : DeviceClass) (j : Nat) :
    CountsOk c e (b.put k j (baseCount k)) where
  expSize := h.expSize
  baseSize l := (Banks.bank_put_length b k l j _).trans (h.baseSize l)
  baseMost l x hx := by
    obtain ⟨rfl, rfl⟩ | hx := Banks.mem_bank_put hx
    · exact Nat.le_refl _
    · exact h.baseMost l x hx
  expMost := h.expMost

theorem baseCount_le_expMost (k : DeviceClass) : (baseCount k).toNat ≤ expMost k := by
  cases k <;> decide

/-- One response more than the base count, of a force actuator or a monitor, is within the most expected of it; the sum does
not wrap. -/
theorem CountsOk.baseOf_succ_le {s : State} {c : Config} {e : Banks (BitVec 3)} (h : CountsOk c e s.base)
    {k : DeviceClass} (j : Nat) (hk : k ≠ .hp) : (s.baseOf k j + 1).toNat ≤ Machine.expMost k := by
  have hroom : (baseCount k).toNat + 1 ≤ Machine.expMost k := by
    cases k with
    | fa | hm => decide
    | hp => exact absurd rfl hk
  have hle := h.baseOf_le k j
  have hadd : (s.baseOf k j + 1).toNat ≤ (s.baseOf k j).toNat + 1 := by
    rw [BitVec.toNat_add]
    exact Nat.mod_le _ _
  omega

/-! ## The buffer -/

/-- The clauses of `Inv` about the buffer. -/
structure BufferOk (c : Config) (m : Memory) : Prop where
  wf : m.wf = true
  inside : ∀ p ∈ m, p.1 < c.capacity

theorem BufferOk.writeAll {c : Config} {m : Memory} {a : Nat} {ws : List Word} (h : BufferOk c m)
    (hf : a + ws.length ≤ c.capacity) : BufferOk c (m.writeAll a ws) where
  wf := Memory.wf_writeAll m a ws h.wf
  inside p hp := by
    obtain hin | hin := Memory.mem_writeAll hp
    · exact hin.2.trans_le hf
    · exact h.inside p hin

theorem BufferOk.write {c : Config} {m : Memory} {a : Nat} (h : BufferOk c m) (w : Word) (ha : a < c.capacity) :
    BufferOk c (m.write a w) :=
  h.writeAll (ws := [w]) ha

/-! ## BUILD and UPDATE under way -/

/-- What the moves of `BUILD` and `UPDATE` keep: the clauses of `Inv` about what they change. -/
structure Composing (T : Topology) (s : State) : Prop where
  buffer : BufferOk s.cfg s.mem
  counts : CountsOk s.cfg s.exp s.base
  regs : ∀ i : Subnet, RegsOk T i s.sub[i]

theorem State.modSub_sub_self (s : State) (i : Subnet) (f : SubnetRegs → SubnetRegs) :
    (s.modSub i f).sub[i] = f s.sub[i] := by
  simp

theorem State.modSub_sub_of_ne (s : State) {i j : Subnet} (f : SubnetRegs → SubnetRegs) (h : j ≠ i) :
    (s.modSub i f).sub[j] = s.sub[j] := by
  have hval : i.val ≠ j.val := fun hij => h (Fin.ext hij.symm)
  simp [Vector.getElem_set_ne _ _ hval]

theorem Move.composing {T : Topology} {b : Bool} {s t : State} (h : Move T b s t) (hs : Composing T s) :
    Composing T t := by
  obtain ⟨hbuf, hcounts, hregs⟩ := hs
  cases h with
  | words ws hf => exact ⟨hbuf.writeAll hf.1, hcounts, hregs⟩
  | poked a w _ ha => exact ⟨hbuf.write w ha, hcounts, hregs⟩
  | sought | block => exact ⟨hbuf, hcounts, hregs⟩
  | regs i f hr =>
    refine ⟨hbuf, hcounts, fun j => ?_⟩
    by_cases hj : j = i
    · subst hj
      rw [State.modSub_sub_self]
      exact hr (hregs j)
    · rw [State.modSub_sub_of_ne s f hj]
      exact hregs j
  | restored k j =>
    exact ⟨hbuf, hcounts.putExp j ((hcounts.baseOf_le k j).trans (baseCount_le_expMost k)), hregs⟩
  | expected k j hk => exact ⟨hbuf, hcounts.putExp j (hcounts.baseOf_succ_le j hk), hregs⟩
  | based k j => exact ⟨hbuf, (hcounts.putExp j (baseCount_le_expMost k)).putBase k j, hregs⟩

theorem Moves.composing {T : Topology} {b : Bool} {s t : State} (h : Moves T b s t) (hs : Composing T s) :
    Composing T t := by
  induction h with
  | refl => exact hs
  | tail _ hm ih => exact hm.composing ih

/-! ## The invariant -/

/-- The clauses of `Inv` about the two counters. -/
structure CountersOk (c : Config) (clock : BitVec 3) (bcast : BitVec 8) : Prop where
  clock : clock.toNat ≤ 4
  bcast : bcast.toNat < c.bcastMod

/-- The clauses of `Inv` about what a topology brings: none exactly when unconfigured, sized as it was checked at load. -/
structure LoadOk (c : Config) (phase : Phase) (topology : Option Topology) (disabled : Banks Bool) : Prop where
  phase : phase = .unconfigured ↔ topology = none
  sized : ∀ T ∈ topology, topologySized c T = true ∧ banksSized c disabled = true

/-- The clauses of `Inv` about the registers of the five subnets. -/
structure SubnetsOk (phase : Phase) (topology : Option Topology) (sub : Vector SubnetRegs 5) : Prop where
  poll : ∀ i : Subnet, sub[i].pollOffset.isSome = sub[i].pollData.isSome
  slots : ∀ i : Subnet, sub[i].lvdtOffset = none → sub[i].hmSched = []
  rr : ∀ T ∈ topology, phase = .built → ∀ i : Subnet, sub[i].rr.toNat < max 1 T[i].fa.length

/-- The invariant by what its clauses are about. -/
theorem inv_iff {s : State} :
    Inv s ↔ s.cfg.legal = true ∧ BufferOk s.cfg s.mem ∧ CountersOk s.cfg s.lvdtClock s.bcast
      ∧ LoadOk s.cfg s.phase s.topology s.disabled ∧ CountsOk s.cfg s.exp s.base
      ∧ SubnetsOk s.phase s.topology s.sub := by
  rw [countsOk_iff]
  constructor
  · rintro ⟨hcfg, hwf, hin, hclk, hbc, hph, hsz, hes, hbs, hb, he, hpoll, hslots, hrr⟩
    exact ⟨hcfg, ⟨hwf, hin⟩, ⟨hclk, hbc⟩, ⟨hph, hsz⟩, ⟨hes, hbs, hb, he⟩, ⟨hpoll, hslots, hrr⟩⟩
  · rintro ⟨hcfg, ⟨hwf, hin⟩, ⟨hclk, hbc⟩, ⟨hph, hsz⟩, ⟨hes, hbs, hb, he⟩, ⟨hpoll, hslots, hrr⟩⟩
    exact ⟨hcfg, hwf, hin, hclk, hbc, hph, hsz, hes, hbs, hb, he, hpoll, hslots, hrr⟩

theorem Inv.placed {s : State} {ws : List Word} (h : Inv s) (hf : Fits s ws.length) : Inv (s.placed ws) := by
  obtain ⟨hcfg, hbuf, hrest⟩ := inv_iff.mp h
  exact inv_iff.mpr ⟨hcfg, hbuf.writeAll hf.1, hrest⟩

theorem Inv.write {s : State} {a : Nat} (h : Inv s) (w : Word) (ha : a < s.cfg.capacity) :
    Inv { s with mem := s.mem.write a w } := by
  obtain ⟨hcfg, hbuf, hrest⟩ := inv_iff.mp h
  exact inv_iff.mpr ⟨hcfg, hbuf.write w ha, hrest⟩

/-! ### LOAD_TOPOLOGY and SET_DISABLED -/

theorem containersOf_devices (l : List ILCMap) (i : Subnet) (k : DeviceClass) :
    (containersOf l)[i].devices k = devicesOf l i k := by
  cases k <;> simp [containersOf, Container.devices]

/-- A record that is valid has its `DataIndex` inside the bank of its class (47_buslist R255). -/
theorem recordValid_dataIndex {c : Config} {d : ILCMap} {k : DeviceClass} (h : recordValid c d = true)
    (hk : d.type = some k) : d.dataIndex < c.bankSize k := by
  simp only [recordValid, hk, Bool.and_eq_true, decide_eq_true_eq] at h
  exact h.2

/-- What is checked at load is what the invariant says of the containers. -/
theorem topologySized_containersOf {c : Config} {l : List ILCMap} (h : topologyValid c l = true) :
    topologySized c (containersOf l) = true := by
  simp only [topologyValid, Bool.and_eq_true, List.all_eq_true, decide_eq_true_eq] at h
  obtain ⟨⟨hrecords, -⟩, hlengths⟩ := h
  simp only [topologySized, containersOf_devices, List.all_eq_true, Bool.and_eq_true, decide_eq_true_eq]
  intro i hi k hk
  refine ⟨hlengths i hi k hk, fun d hd => ?_⟩
  simp only [devicesOf, List.mem_filter, Bool.and_eq_true, decide_eq_true_eq] at hd
  exact recordValid_dataIndex (hrecords d hd.1) hd.2.2

theorem banksSized_put {α : Type} {c : Config} {b : Banks α} (h : banksSized c b = true) (k : DeviceClass) (j : Nat)
    (x : α) : banksSized c (b.put k j x) = true := by
  rw [banksSized_iff] at h ⊢
  exact fun l => (Banks.bank_put_length b k l j x).trans (h l)

theorem banksSized_initialDisabled (c : Config) (l : List ILCMap) : banksSized c (initialDisabled c l) = true := by
  unfold initialDisabled
  refine List.foldlRecOn l _ (motive := fun b => banksSized c b = true) ?_ fun b hb d _ => ?_
  · exact banksSized_iff.mpr fun k => by rw [Banks.bank_fill, List.length_replicate]
  · split
    · exact banksSized_put hb _ _ _
    · exact hb

theorem Inv.acceptTopology {s : State} {l : List ILCMap} (h : Inv s) (hl : topologyValid s.cfg l = true) :
    Inv (acceptTopology l s) := by
  obtain ⟨hcfg, hbuf, hctr, -, hcounts, hsub⟩ := inv_iff.mp h
  refine inv_iff.mpr ⟨hcfg, hbuf, hctr, ⟨by simp, ?_⟩, hcounts, ⟨hsub.poll, hsub.slots, nofun⟩⟩
  intro T hT
  cases hT
  exact ⟨topologySized_containersOf hl, banksSized_initialDisabled s.cfg l⟩

theorem Inv.rejectTopology {s : State} (h : Inv s) : Inv (rejectTopology s) := by
  obtain ⟨hcfg, hbuf, hctr, -, hcounts, hsub⟩ := inv_iff.mp h
  exact inv_iff.mpr ⟨hcfg, hbuf, hctr, ⟨by simp, nofun⟩, hcounts, ⟨hsub.poll, hsub.slots, nofun⟩⟩

theorem Inv.setDisabled {s : State} (h : Inv s) (k : DeviceClass) (j : Nat) (b : Bool) :
    Inv { s with disabled := s.disabled.put k j b } := by
  obtain ⟨hcfg, hbuf, hctr, hload, hrest⟩ := inv_iff.mp h
  refine inv_iff.mpr ⟨hcfg, hbuf, hctr, ⟨hload.phase, fun T hT => ?_⟩, hrest⟩
  exact ⟨(hload.sized T hT).1, banksSized_put (hload.sized T hT).2 k j b⟩

/-! ### BUILD and UPDATE -/

theorem regsOk_initial (T : Topology) (i : Subnet) : RegsOk T i SubnetRegs.initial :=
  ⟨rfl, fun _ => rfl, Nat.one_pos.trans_le (Nat.le_max_left _ _)⟩

/-- `BUILD` starts its moves with the registers and counts it has just cleared (47_buslist R261). -/
theorem Inv.composing_buildInit {s : State} (h : Inv s) (T : Topology) (x : Variant) :
    Composing T (buildInit x s) := by
  obtain ⟨-, hbuf, -⟩ := inv_iff.mp h
  refine ⟨hbuf, countsOk_fill s.cfg, fun i => ?_⟩
  simpa using regsOk_initial T i

/-- `UPDATE` starts its moves with the registers and counts of a built schedule. -/
theorem Inv.composing_updateInit {s : State} {T : Topology} (h : Inv s) (hphase : s.phase = .built)
    (hT : s.topology = some T) : Composing T (updateInit s) := by
  obtain ⟨-, hbuf, -, -, hcounts, hsub⟩ := inv_iff.mp h
  exact ⟨hbuf, hcounts, fun i => ⟨hsub.poll i, hsub.slots i, hsub.rr T hT hphase i⟩⟩

/-- A built state whose schedule is composed over the loaded topology of a state with the invariant has it too. -/
theorem Composing.inv {s t : State} {T : Topology} (hc : Composing T t) (h : Inv s) (hT : s.topology = some T)
    (hphase : t.phase = .built) (hcfg : t.cfg = s.cfg) (htop : t.topology = s.topology)
    (hdis : t.disabled = s.disabled) (hctr : CountersOk s.cfg t.lvdtClock t.bcast) : Inv t := by
  obtain ⟨hlegal, -, -, hload, -⟩ := inv_iff.mp h
  have hsub : SubnetsOk t.phase t.topology t.sub := by
    refine ⟨fun i => (hc.regs i).poll, fun i => (hc.regs i).slots, fun T' hT' _ i => ?_⟩
    cases (htop.trans hT).symm.trans hT'
    exact (hc.regs i).rr
  refine inv_iff.mpr ⟨by rwa [hcfg], hc.buffer, by rwa [hcfg], ⟨?_, ?_⟩, hc.counts, hsub⟩
  · rw [hphase, htop, hT]
    exact ⟨nofun, nofun⟩
  · rw [hcfg, htop, hdis]
    exact hload.sized

theorem Inv.buildFinish {s u : State} {T : Topology} {x : Variant} (h : Inv s) (hT : s.topology = some T)
    (hm : Moves T true (buildInit x s) u) : Inv (buildFinish u) := by
  have hc := hm.composing (h.composing_buildInit T x)
  have hk := hm.kept
  obtain ⟨-, -, hctr, -⟩ := inv_iff.mp h
  refine Composing.inv ⟨hc.buffer, hc.counts, hc.regs⟩ h hT rfl hk.cfg hk.topology hk.disabled ⟨?clock, ?bcast⟩
  case clock =>
    rw [buildFinish_lvdtClock, hk.lvdtClock]
    exact Nat.zero_le 4
  case bcast =>
    rw [buildFinish_bcast, hk.bcast]
    exact hctr.bcast

theorem lvdtNext_le {n : Nat} (h : n ≤ 4) : lvdtNext n ≤ 4 := by
  unfold lvdtNext
  split <;> omega

theorem Config.parametersLegal_bcastMod {c : Config} (h : c.parametersLegal = true) :
    2 ≤ c.bcastMod ∧ c.bcastMod ≤ 256 := by
  simp only [Config.parametersLegal, Bool.and_eq_true, decide_eq_true_eq] at h
  exact ⟨h.1.1.2, h.1.2⟩

/-- The broadcast counter stays below its modulus (46_roundrobin R232). -/
theorem bcastNext_lt {c : Config} (h : c.parametersLegal = true) (b : BitVec 8) :
    (bcastNext c b).toNat < c.bcastMod := by
  obtain ⟨hlow, hhigh⟩ := Config.parametersLegal_bcastMod h
  rw [bcastNext_toNat b (by omega) hhigh]
  exact Nat.mod_lt _ (by omega)

theorem Inv.updateFinish {s u : State} {T : Topology} (h : Inv s) (hphase : s.phase = .built)
    (hT : s.topology = some T) (hm : Moves T false (updateInit s) u) : Inv (updateFinish u) := by
  have hc := hm.composing (h.composing_updateInit hphase hT)
  have hk := hm.kept
  obtain ⟨hlegal, -, hctr, -⟩ := inv_iff.mp h
  refine Composing.inv ⟨hc.buffer, hc.counts, hc.regs⟩ h hT (hk.phase.trans hphase) hk.cfg hk.topology hk.disabled
    ⟨?clock, ?bcast⟩
  case clock =>
    rw [updateFinish_lvdtClock, hk.lvdtClock, BitVec.toNat_ofNat]
    exact (Nat.mod_le _ _).trans (lvdtNext_le hctr.clock)
  case bcast =>
    rw [updateFinish_bcast, hk.bcast]
    exact bcastNext_lt (Config.legal_parameters hlegal) s.bcast

/-! ## Every effect and every step -/

theorem Effect.inv {i : Instr} {s t : State} (he : Effect s i t) (h : Inv s) : Inv t := by
  cases he with
  | answered | sought | lengthSet => exact h
  | wrote _ ws _ hf => exact h.placed hf
  | poked a w ha => exact h.write w ha
  | opened v b ws hf => exact h.placed hf
  | closed ws a w n hf ha => exact (h.placed hf).write w ha
  | accepted l o hl => exact h.acceptTopology hl
  | rejected => exact h.rejectTopology
  | disabledSet k j b => exact h.setDisabled k j b
  | built _ _ _ _ _ T x u hT _ hm =>
    have hu : Inv (buildFinish u) := h.buildFinish hT hm
    exact hu
  | updated _ _ _ _ T u hphase hT hm =>
    have hu : Inv (updateFinish u) := h.updateFinish hphase hT hm
    exact hu

/-- Settles O58: taking a request off the port changes nothing the invariant speaks of, and every effect keeps it. -/
theorem everyStepKeepsTheInvariant : Obligations.EveryStepKeepsTheInvariant := by
  intro s t h hstep
  cases hs : s.requests with
  | nil =>
    rw [step_idle hs] at hstep
    cases hstep
    exact h
  | cons r rest =>
    have htaken : Inv { s with requests := rest } := h
    cases hd : decode s.cfg r with
    | ok i =>
      rw [step_decoded hs hd] at hstep
      exact (exec_effect hstep).inv htaken
    | error e =>
      by_cases he : ∃ w, e = .noWireWord w
      · obtain ⟨w, rfl⟩ := he
        rw [step_noWireWord hs hd] at hstep
        cases hstep
        exact htaken
      · rw [step_turnedAway hs hd (not_exists.mp he)] at hstep
        cases hstep
        exact htaken

end Sys2Proof.Machine
end

section
/-! The buffer window of 20_memory, and the layout that `BUILD` leaves: every frame recorded for in-place patching stands complete
before the cursor, from the moment its last word is written. -/

namespace Sys2Proof.Machine

/-! ## The window -/

/-- Settles O59: the window is one bounded read from index 0. -/
theorem windowIsTheValidRegion : Obligations.WindowIsTheValidRegion := by
  intro s ws
  rw [State.window, memRead_eq_ok, Memory.readAll_eq_some, Nat.zero_add]
  refine and_congr_right fun _ => and_congr_right fun hlen => ?_
  rw [Holds, hlen]

/-! ## What is recorded for in-place patching -/

/-- The frames of one subnet that `UPDATE` rewrites, in the order of 47_buslist R270. -/
inductive PatchKind where
  | force | poll | step | lvdt

/-- What is recorded of such a frame: its offset, and the monitors latched with it, which only the LVDT block has. -/
abbrev PatchRecord := Index × List ILCMap

/-- What the registers of a subnet record of each kind of frame. -/
def SubnetRegs.recorded (r : SubnetRegs) : PatchKind → Option PatchRecord
  | .force => r.fdOffset.map (·, [])
  | .poll => r.pollOffset.map (·, [])
  | .step => r.stepOffset.map (·, [])
  | .lvdt => r.lvdtOffset.map (·, r.hmSched)

/-- The registers of a subnet once a frame of the kind is recorded at `o`. -/
def SubnetRegs.record (k : PatchKind) (o : Index) (ds : List ILCMap) (r : SubnetRegs) : SubnetRegs :=
  match k with
  | .force => { r with fdOffset := some o }
  | .poll => { r with pollOffset := some o }
  | .step => { r with stepOffset := some o }
  | .lvdt => { r with lvdtOffset := some o, hmSched := ds }

theorem SubnetRegs.recorded_record_of_ne {k l : PatchKind} (h : l ≠ k) (o : Index) (ds : List ILCMap) (r : SubnetRegs) :
    (r.record k o ds).recorded l = r.recorded l := by
  cases k <;> cases l <;> first | rfl | exact absurd rfl h

/-- How many words are rewritten at a recorded offset, with the monitors `ds` latched. -/
def PatchKind.width (c : Config) (P : Profile) (ds : List ILCMap) : PatchKind → Nat
  | .force => frameWords c .broadcastForceDemand
  | .poll => frameWords c .reportServerStatus
  | .step => hpWords c P
  | .lvdt => ds.length * frameWords c .reportLvdt

/-- The words rewritten at a recorded offset. -/
def PatchKind.span (c : Config) (P : Profile) (k : PatchKind) (q : PatchRecord) : Span :=
  (q.1.toNat, q.1.toNat + k.width c P q.2)

/-- The words that `Layout` lets stand at a recorded offset. -/
inductive PatchKind.Starts (T : Topology) (c : Config) (P : Profile) (i : Subnet) (ds : List ILCMap) :
    PatchKind → Word → Prop where
  | force : Starts T c P i ds .force (tag c addrBcastFA)
  | poll (d : ILCMap) (hd : d ∈ T[i].fa) : Starts T c P i ds .poll (tag c d.address)
  | step (hP : P.hpBroadcast ≠ .none) : Starts T c P i ds .step (tag c addrBcastHP)
  | slot (d : ILCMap) (w : Word) (hd : ds.head? = some d) (hw : w = tag c d.address ∨ w = c.nopWord) :
      Starts T c P i ds .lvdt w

/-- The profile of the variant in force. -/
abbrev State.profile (s : State) : Profile := s.cfg.profiles.profile s.variant

/-- The words rewritten on a subnet, frame by frame. -/
theorem rewriteSpansOn_eq (s : State) (i : Subnet) :
    rewriteSpansOn s i = [PatchKind.force, .poll, .step, .lvdt].flatMap
      (fun k => (s.sub[i].recorded k).toList.map (k.span s.cfg s.profile)) := by
  simp [rewriteSpansOn, spanAt, SubnetRegs.recorded, PatchKind.span, PatchKind.width, Option.toList_map,
    Function.comp_def]

theorem mem_rewriteSpansOn {s : State} {i : Subnet} {p : Span} :
    p ∈ rewriteSpansOn s i ↔ ∃ k q, s.sub[i].recorded k = some q ∧ p = k.span s.cfg s.profile q := by
  rw [rewriteSpansOn_eq, List.mem_flatMap]
  constructor
  · rintro ⟨k, -, hp⟩
    obtain ⟨q, hq, rfl⟩ := List.mem_map.mp hp
    exact ⟨k, q, Option.mem_toList.mp hq, rfl⟩
  · rintro ⟨k, q, hq, rfl⟩
    refine ⟨k, ?_, List.mem_map_of_mem (Option.mem_toList.mpr hq)⟩
    cases k <;> simp

/-- The frame recorded as `q` stands complete before the cursor. -/
structure Stands (T : Topology) (s : State) (i : Subnet) (k : PatchKind) (q : PatchRecord) : Prop where
  nonempty : 0 < k.width s.cfg s.profile q.2
  inside : (k.span s.cfg s.profile q).2 ≤ s.cursor.toNat
  starts : ∃ w, s.mem.read q.1.toNat = some w ∧ k.Starts T s.cfg s.profile i q.2 w

/-- The layout while `BUILD` is under way: `Layout` with the cursor in the place of the length, and the length word of an open
block at no recorded offset, so that closing the block rewrites no frame's first word. -/
structure Laid (T : Topology) (s : State) : Prop where
  stands : ∀ (i : Subnet) (k : PatchKind) (q : PatchRecord), s.sub[i].recorded k = some q → Stands T s i k q
  apart : ∀ (i : Subnet) (k : PatchKind) (q : PatchRecord) (j : Subnet) (l : PatchKind) (r : PatchRecord), (i, k) ≠ (j, l) →
    s.sub[i].recorded k = some q → s.sub[j].recorded l = some r →
    Span.apart (k.span s.cfg s.profile q) (l.span s.cfg s.profile r)
  block : ∀ b, s.openBlock = some b →
    b.lenIndex.toNat < s.cursor.toNat
      ∧ ∀ (i : Subnet) (k : PatchKind) (q : PatchRecord), s.sub[i].recorded k = some q → q.1.toNat ≠ b.lenIndex.toNat
  room : s.cursor.toNat ≤ s.cfg.capacity

theorem Stands.offset_lt {T : Topology} {s : State} {i : Subnet} {k : PatchKind} {q : PatchRecord}
    (h : Stands T s i k q) : q.1.toNat < s.cursor.toNat :=
  (Nat.lt_add_of_pos_right h.nonempty).trans_le h.inside

/-- The spans of a laid state are pairwise apart: within a subnet they belong to different frames, and two subnets' differ by the
subnet. -/
theorem Laid.spans_apart {T : Topology} {s : State} (h : Laid T s) : (rewriteSpans s).Pairwise Span.apart := by
  have hkinds : [PatchKind.force, .poll, .step, .lvdt].Pairwise (· ≠ ·) := by simp
  have hsubnets : subnets.Pairwise (· ≠ ·) := by decide
  refine List.pairwise_flatMap.mpr ⟨fun i _ => ?_, hsubnets.imp fun {i j} hij p hp r hr => ?_⟩
  · rw [rewriteSpansOn_eq]
    refine List.pairwise_flatMap.mpr ⟨fun k _ => ?_, hkinds.imp fun {k l} hkl p hp r hr => ?_⟩
    · cases s.sub[i].recorded k <;> simp
    · obtain ⟨q, hq, rfl⟩ := List.mem_map.mp hp
      obtain ⟨q', hq', rfl⟩ := List.mem_map.mp hr
      exact h.apart i k q i l q' (by simp [hkl]) (Option.mem_toList.mp hq) (Option.mem_toList.mp hq')
  · obtain ⟨k, q, hq, rfl⟩ := mem_rewriteSpansOn.mp hp
    obtain ⟨l, q', hq', rfl⟩ := mem_rewriteSpansOn.mp hr
    exact h.apart i k q j l q' (by simp [hij]) hq hq'

/-- Freezing the length at the cursor of a laid state gives the layout. -/
theorem Laid.layout_buildFinish {T : Topology} {s : State} (h : Laid T s) (hT : s.topology = some T) :
    Layout (buildFinish s) := by
  have hfirst : ∀ (i : Subnet) (k : PatchKind) (q : PatchRecord), s.sub[i].recorded k = some q →
      ∃ w, s.mem.read q.1.toNat = some w ∧ k.Starts T s.cfg s.profile i q.2 w := fun i k q hq => (h.stands i k q hq).starts
  refine ⟨h.room, h.spans_apart, ?inside, ?force, ?step, ?poll, ?lvdt⟩
  case inside =>
    intro p hp
    obtain ⟨i, -, hp⟩ := List.mem_flatMap.mp hp
    obtain ⟨k, q, hq, rfl⟩ := mem_rewriteSpansOn.mp hp
    exact (h.stands i k q hq).inside
  case force =>
    intro i o ho
    obtain ⟨w, hw, hs⟩ := hfirst i .force (o, []) (by simpa [SubnetRegs.recorded] using ho)
    cases hs
    exact hw
  case step =>
    intro i o ho
    obtain ⟨w, hw, hs⟩ := hfirst i .step (o, []) (by simpa [SubnetRegs.recorded] using ho)
    cases hs with
    | step hP => exact ⟨hP, hw⟩
  case poll =>
    intro i o ho
    obtain ⟨w, hw, hs⟩ := hfirst i .poll (o, []) (by simpa [SubnetRegs.recorded] using ho)
    cases hs with
    | poll d hd => exact ⟨T, hT, d, hd, hw⟩
  case lvdt =>
    intro i o ho
    obtain ⟨w, hw, hs⟩ := hfirst i .lvdt (o, s.sub[i].hmSched) (by simpa [SubnetRegs.recorded] using ho)
    cases hs with
    | slot d _ hd hword =>
      refine ⟨d, hd, hword.imp ?_ ?_⟩ <;> rintro rfl <;> exact hw

/-! ## Appending words -/

/-- `t` comes from `s` without a change to a word below the cursor, to what an offset is read under, or to the open block. -/
structure Extended (s t : State) : Prop where
  cfg : t.cfg = s.cfg
  variant : t.variant = s.variant
  openBlock : t.openBlock = s.openBlock
  cursor : s.cursor.toNat ≤ t.cursor.toNat
  room : s.cursor.toNat ≤ s.cfg.capacity → t.cursor.toNat ≤ s.cfg.capacity
  below : ∀ a < s.cursor.toNat, t.mem.read a = s.mem.read a

/-- `t` extends `s` and records the same offsets. -/
structure Appended (s t : State) : Prop extends Extended s t where
  recorded : ∀ (i : Subnet) (k : PatchKind), t.sub[i].recorded k = s.sub[i].recorded k

/-- A frame of `n` words whose first is `w` stands at the cursor of `s`. -/
structure Framed (s t : State) (n : Nat) (w : Word) : Prop extends Appended s t where
  nonempty : 0 < n
  inside : s.cursor.toNat + n ≤ t.cursor.toNat
  starts : t.mem.read s.cursor.toNat = some w

theorem Extended.trans {s t u : State} (h : Extended s t) (g : Extended t u) : Extended s u where
  cfg := g.cfg.trans h.cfg
  variant := g.variant.trans h.variant
  openBlock := g.openBlock.trans h.openBlock
  cursor := h.cursor.trans g.cursor
  room hr := h.cfg ▸ g.room (by rw [h.cfg]; exact h.room hr)
  below a ha := (g.below a (ha.trans_le h.cursor)).trans (h.below a ha)

theorem Extended.modSub (s : State) (i : Subnet) (f : SubnetRegs → SubnetRegs) : Extended s (s.modSub i f) :=
  ⟨rfl, rfl, rfl, le_rfl, id, fun _ _ => rfl⟩

theorem Extended.profile {s t : State} (h : Extended s t) : t.profile = s.profile := by
  rw [State.profile, h.cfg, h.variant]

/-- A frame that stands complete goes on doing so. -/
theorem Stands.extended {T : Topology} {s t : State} {i : Subnet} {k : PatchKind} {q : PatchRecord}
    (h : Stands T s i k q) (he : Extended s t) : Stands T t i k q := by
  have hread : t.mem.read q.1.toNat = s.mem.read q.1.toNat := he.below _ h.offset_lt
  obtain ⟨hpos, hin, hfirst⟩ := h
  constructor <;> rw [he.cfg, he.profile]
  · exact hpos
  · exact hin.trans he.cursor
  · rwa [hread]

theorem Appended.refl (s : State) : Appended s s :=
  ⟨⟨rfl, rfl, rfl, le_rfl, id, fun _ _ => rfl⟩, fun _ _ => rfl⟩

theorem Appended.trans {s t u : State} (h : Appended s t) (g : Appended t u) : Appended s u :=
  ⟨h.toExtended.trans g.toExtended, fun i k => (g.recorded i k).trans (h.recorded i k)⟩

theorem Framed.trans {s t u : State} {n : Nat} {w : Word} (h : Framed s t n w) (g : Appended t u) : Framed s u n w where
  toAppended := h.toAppended.trans g
  nonempty := h.nonempty
  inside := h.inside.trans g.cursor
  starts := by
    have hlt : s.cursor.toNat < t.cursor.toNat := (Nat.lt_add_of_pos_right h.nonempty).trans_le h.inside
    rw [g.below _ hlt, h.starts]

theorem Laid.appended {T : Topology} {s t : State} (h : Laid T s) (ha : Appended s t) : Laid T t where
  stands i k q hq := (h.stands i k q (ha.recorded i k ▸ hq)).extended ha.toExtended
  apart i k q j l r hne hq hr := by
    rw [ha.cfg, ha.profile]
    exact h.apart i k q j l r hne (ha.recorded i k ▸ hq) (ha.recorded j l ▸ hr)
  block b hb := by
    obtain ⟨hlt, hoff⟩ := h.block b (ha.openBlock ▸ hb)
    exact ⟨hlt.trans_le ha.cursor, fun i k q hq => hoff i k q (ha.recorded i k ▸ hq)⟩
  room := ha.cfg ▸ ha.room h.room

/-- Recording one more offset changes what is recorded there and nowhere else. -/
theorem recorded_modSub_record {s : State} {i : Subnet} {k : PatchKind} {o : Index} {ds : List ILCMap}
    (hk : (s.sub[i].record k o ds).recorded k = some (o, ds)) {j : Subnet} {l : PatchKind} {q : PatchRecord}
    (hq : (s.modSub i (·.record k o ds)).sub[j].recorded l = some q) :
    ((j, l) = (i, k) ∧ q = (o, ds)) ∨ s.sub[j].recorded l = some q := by
  by_cases hj : j = i
  · subst hj
    rw [State.modSub_sub_self] at hq
    by_cases hl : l = k
    · subst hl
      exact .inl ⟨rfl, (Option.some.inj (hk.symm.trans hq)).symm⟩
    · exact .inr (SubnetRegs.recorded_record_of_ne hl o ds _ ▸ hq)
  · rw [State.modSub_sub_of_ne s _ hj] at hq
    exact .inr hq

/-- Recording the cursor and composing a frame there keeps the layout: every frame recorded before ends at or before the cursor. -/
theorem Laid.record {T : Topology} {s t : State} (h : Laid T s) {i : Subnet} (k : PatchKind) (ds : List ILCMap) {w : Word}
    (hk : (s.sub[i].record k s.cursor ds).recorded k = some (s.cursor, ds))
    (hf : Framed (s.modSub i (·.record k s.cursor ds)) t (k.width s.cfg s.profile ds) w)
    (hw : k.Starts T s.cfg s.profile i ds w) : Laid T t := by
  have he : Extended s t := (Extended.modSub s i _).trans hf.toExtended
  have hnew : Stands T t i k (s.cursor, ds) := by
    constructor <;> rw [he.cfg, he.profile]
    · exact hf.nonempty
    · exact hf.inside
    · exact ⟨w, hf.starts, hw⟩
  have hcases : ∀ {j l q}, t.sub[j].recorded l = some q →
      ((j, l) = (i, k) ∧ q = (s.cursor, ds)) ∨ s.sub[j].recorded l = some q := fun {j l q} hq =>
    recorded_modSub_record hk (hf.recorded j l ▸ hq)
  refine ⟨?stands, ?apart, ?block, he.cfg ▸ he.room h.room⟩
  case stands =>
    intro j l q hq
    rcases hcases hq with ⟨hjl, rfl⟩ | hold
    · cases hjl
      exact hnew
    · exact (h.stands j l q hold).extended he
  case apart =>
    intro j l q j' l' q' hne hq hq'
    rw [he.cfg, he.profile]
    rcases hcases hq with ⟨hjl, rfl⟩ | hold <;> rcases hcases hq' with ⟨hjl', rfl⟩ | hold'
    · exact absurd (hjl.trans hjl'.symm) hne
    · exact .inr (h.stands j' l' q' hold').inside
    · exact .inl (h.stands j l q hold).inside
    · exact h.apart j l q j' l' q' hne hold hold'
  case block =>
    intro b hb
    obtain ⟨hlt, hoff⟩ := h.block b (he.openBlock ▸ hb)
    refine ⟨hlt.trans_le he.cursor, fun j l q hq => ?_⟩
    rcases hcases hq with ⟨-, rfl⟩ | hold
    · exact hlt.ne'
    · exact hoff j l q hold

/-! ## What the pieces of `BUILD` append -/

theorem Appended.placed {s : State} {ws : List Word} (hf : Fits s ws.length) : Appended s (s.placed ws) := by
  have hcursor := placed_cursor_toNat hf.2
  refine ⟨⟨rfl, rfl, rfl, ?_, fun _ => ?_, fun a ha => ?_⟩, fun _ _ => rfl⟩
  · rw [hcursor]
    exact Nat.le_add_right _ _
  · rw [hcursor]
    exact hf.1
  · exact Memory.read_writeAll_of_not_mem _ (by omega)

theorem Appended.setExp (s : State) (k : DeviceClass) (j : Nat) (n : BitVec 3) : Appended s (s.setExp k j n) :=
  ⟨⟨rfl, rfl, rfl, le_rfl, id, fun _ _ => rfl⟩, fun _ _ => rfl⟩

theorem Appended.setBase (s : State) (k : DeviceClass) (j : Nat) (n : BitVec 3) : Appended s (s.setBase k j n) :=
  ⟨⟨rfl, rfl, rfl, le_rfl, id, fun _ _ => rfl⟩, fun _ _ => rfl⟩

/-- The round-robin target is no part of what is recorded for patching. -/
theorem Appended.pollData (s : State) (i : Subnet) (n : Option Nat) :
    Appended s (s.modSub i (fun r => { r with pollData := n })) := by
  refine ⟨Extended.modSub s i _, fun j k => ?_⟩
  by_cases hj : j = i
  · subst hj
    rw [State.modSub_sub_self]
    cases k <;> rfl
  · rw [State.modSub_sub_of_ne s _ hj]

theorem emit_appended {ws : List Word} {s t : State} (h : emit ws s = .ok t) : Appended s t := by
  obtain ⟨hf, rfl⟩ := emit_eq_ok.mp h
  exact .placed hf

/-- A non-empty run of words is a frame that begins with its first word. -/
theorem Framed.placed {s : State} {w : Word} {ws : List Word} (hf : Fits s (w :: ws).length) :
    Framed s (s.placed (w :: ws)) (w :: ws).length w where
  toAppended := .placed hf
  nonempty := Nat.succ_pos _
  inside := (placed_cursor_toNat hf.2).ge
  starts := by
    rw [State.placed_mem, Memory.read_writeAll, if_pos (by simp)]
    simp

/-- A scheduled frame has the length of its command and begins with its address, under every configuration. -/
theorem scheduled_framed {k : CmdType} {a : Byte} {env : FieldArgs} {s t : State} (h : scheduled k a env s = .ok t) :
    Framed s t (frameWords s.cfg k) (tag s.cfg a) := by
  obtain ⟨p, hp, h⟩ := bind_eq_ok.mp h
  obtain ⟨e, _, d, he, -, hd, -, rfl⟩ := frameParts_eq_ok.mp hp
  obtain ⟨hf, rfl⟩ := frame_eq_ok.mp h
  rw [frameWords_eq he, ← bindNamed_length hd, ← frameList_length s.cfg a e.function d]
  rw [← frameList_length s.cfg a e.function d] at hf
  exact Framed.placed hf

theorem faStatusFrame_appended {d : ILCMap} {s t : State} (h : faStatusFrame d s = .ok t) : Appended s t := by
  obtain ⟨u, hu, h⟩ := bind_eq_ok.mp h
  cases h
  exact (scheduled_framed hu).toAppended.trans (.setBase u .fa d.dataIndex 1)

theorem hpStatusFrames_appended {d : ILCMap} {s t : State} (h : hpStatusFrames d s = .ok t) : Appended s t := by
  obtain ⟨u, hu, h⟩ := bind_eq_ok.mp h
  obtain ⟨v, hv, h⟩ := bind_eq_ok.mp h
  cases h
  exact ((scheduled_framed hu).toAppended.trans (scheduled_framed hv).toAppended).trans (.setBase v .hp d.dataIndex 2)

theorem hmStatusFrames_appended {d : ILCMap} {s t : State} (h : hmStatusFrames d s = .ok t) : Appended s t := by
  obtain ⟨u, hu, h⟩ := bind_eq_ok.mp h
  obtain ⟨v, hv, h⟩ := bind_eq_ok.mp h
  obtain ⟨w, hw, h⟩ := bind_eq_ok.mp h
  cases h
  exact (((scheduled_framed hu).toAppended.trans (scheduled_framed hv).toAppended).trans
    (scheduled_framed hw).toAppended).trans (.setBase w .hm d.dataIndex 3)

/-- What every entry's operation appends, the whole sequence appends. -/
theorem runAll_appended {α : Type} {f : α → State → Run} (hf : ∀ x s t, f x s = .ok t → Appended s t) {xs : List α}
    {s t : State} (h : runAll f xs s = .ok t) : Appended s t :=
  runAll_keeps (Appended s) (fun x u v hu hv => hu.trans (hf x u v hv)) xs s t (.refl s) h

theorem pollFrame_framed {i : Subnet} {d : ILCMap} {s t : State} (h : pollFrame i d s = .ok t) :
    Framed s t (frameWords s.cfg .reportServerStatus) (tag s.cfg d.address) := by
  obtain ⟨u, hu, h⟩ := bind_eq_ok.mp h
  cases h
  exact ((scheduled_framed hu).trans (.pollData u i _)).trans (.setExp _ .fa d.dataIndex _)

/-- With a hardpoint broadcast in the profile, the frame that opens the section is addressed to every hardpoint. -/
theorem hpFrame_framed {P : Profile} {inp : Inputs} {s t : State} (hP : P.hpBroadcast ≠ .none)
    (h : hpFrame P inp s = .ok t) : Framed s t (hpWords s.cfg P) (tag s.cfg addrBcastHP) := by
  unfold hpFrame hpCall at h
  unfold hpWords hpCommand
  cases hb : P.hpBroadcast with
  | none => exact absurd hb hP
  | stepMotor | freeze =>
    rw [hb] at h
    exact scheduled_framed h

/-- An LVDT slot is a frame to its monitor, or a placeholder of the same length (47_buslist R266). -/
theorem lvdtSlot_framed {d : ILCMap} {s t : State} (h : lvdtSlot d s = .ok t) :
    ∃ w, Framed s t (frameWords s.cfg .reportLvdt) w ∧ (w = tag s.cfg d.address ∨ w = s.cfg.nopWord) := by
  unfold lvdtSlot at h
  split at h
  · obtain ⟨u, hu, h⟩ := bind_eq_ok.mp h
    cases h
    exact ⟨_, (scheduled_framed hu).trans (.setExp u .hm d.dataIndex _), .inl rfl⟩
  · split at h
    · rename_i e he
      obtain ⟨u, hu, h⟩ := bind_eq_ok.mp h
      cases h
      obtain ⟨hf, rfl⟩ := emit_eq_ok.mp hu
      set slot := List.replicate (payloadLength e.payload + 6) s.cfg.nopWord with hslot
      have hwidth : slot.length = frameWords s.cfg .reportLvdt := by rw [hslot, List.length_replicate, frameWords_eq he]
      have hwords : Framed s (s.placed slot) slot.length s.cfg.nopWord := .placed hf
      rw [hwidth] at hwords
      exact ⟨_, hwords.trans (.setExp _ .hm d.dataIndex _), .inr rfl⟩
    · cases h

/-- An LVDT block has the length of its slots together, and begins as its first slot does. -/
theorem lvdtSlots_framed {d : ILCMap} {ds : List ILCMap} {s t : State} (h : runAll lvdtSlot (d :: ds) s = .ok t) :
    ∃ w, Framed s t ((d :: ds).length * frameWords s.cfg .reportLvdt) w
      ∧ (w = tag s.cfg d.address ∨ w = s.cfg.nopWord) := by
  induction ds generalizing d s with
  | nil =>
    obtain ⟨u, hu, h⟩ := bind_eq_ok.mp h
    cases h
    simpa using lvdtSlot_framed hu
  | cons d' ds ih =>
    obtain ⟨u, hu, h⟩ := bind_eq_ok.mp h
    obtain ⟨w, hfirst, hw⟩ := lvdtSlot_framed hu
    obtain ⟨_, hrest, -⟩ := ih h
    have hwhole := hfirst.trans hrest.toAppended
    refine ⟨w, ⟨hwhole.toAppended, Nat.mul_pos (Nat.succ_pos _) hfirst.nonempty, ?_, hwhole.starts⟩, hw⟩
    have hend := hrest.inside
    rw [hfirst.cfg] at hend
    have hmid := hfirst.inside
    rw [List.length_cons, Nat.succ_mul]
    omega

/-! ## BUILD keeps the layout, piece by piece -/

/-- A piece that is left out unless a condition holds. -/
theorem ite_laid {T : Topology} {c : Prop} [Decidable c] {r : Run} {s t : State} (hs : Laid T s)
    (hr : c → r = .ok t → Laid T t) (h : (if c then r else .ok s) = .ok t) : Laid T t := by
  split at h
  · exact hr ‹c› h
  · cases h
    exact hs

theorem buildForce_laid {T : Topology} {inp : Inputs} {i : Subnet} {s t : State} (hs : Laid T s)
    (h : buildForce T inp i s = .ok t) : Laid T t := by
  obtain ⟨u, hforce, htime⟩ := bind_eq_ok.mp h
  exact (hs.record .force [] rfl (scheduled_framed hforce) .force).appended (emit_appended htime)

theorem buildStatus_laid {T : Topology} {i : Subnet} {s t : State} (hs : Laid T s) (h : buildStatus T i s = .ok t) :
    Laid T t := by
  obtain ⟨u, hu, h⟩ := bind_eq_ok.mp h
  have hstatus : Laid T u := hs.appended (runAll_appended (fun _ _ _ => faStatusFrame_appended) hu)
  split at h
  · rename_i d hd
    have hfa : d ∈ T[i].fa := (List.mem_filter.mp (List.mem_of_getElem? hd)).1
    exact hstatus.record .poll [] rfl (pollFrame_framed h) (.poll d hfa)
  · cases h
    exact hstatus

theorem faSection_laid {T : Topology} {P : Profile} {inp : Inputs} {i : Subnet} {s t : State} (hs : Laid T s)
    (h : faSection T P inp i s = .ok t) : Laid T t := by
  obtain ⟨u, hu, h⟩ := ite_bind_eq_ok.mp h
  have hforce : Laid T u := ite_laid hs (fun _ => buildForce_laid hs) hu
  exact ite_laid hforce (fun _ => buildStatus_laid hforce) h

theorem hpSection_laid {T : Topology} {P : Profile} {inp : Inputs} {i : Subnet} {s t : State} (hs : Laid T s)
    (hP : s.profile = P) (h : hpSection T P inp i s = .ok t) : Laid T t := by
  obtain ⟨u, hu, h⟩ := ite_bind_eq_ok.mp h
  have hbroadcast : Laid T u := by
    split at hu
    · cases hu
      exact hs
    · rename_i hne
      subst hP
      exact hs.record .step [] rfl (hpFrame_framed hne hu) (.step hne)
  exact ite_laid hbroadcast (fun _ hr => hbroadcast.appended (runAll_appended (fun _ _ _ => hpStatusFrames_appended) hr)) h

theorem hmSection_laid {T : Topology} {P : Profile} {i : Subnet} {s t : State} (hs : Laid T s)
    (h : hmSection T P i s = .ok t) : Laid T t :=
  ite_laid hs (fun _ hr => hs.appended (runAll_appended (fun _ _ _ => hmStatusFrames_appended) hr)) h

theorem lvdtSection_laid {T : Topology} {P : Profile} {i : Subnet} {s t : State} (hs : Laid T s)
    (h : lvdtSection T P i s = .ok t) : Laid T t := by
  refine ite_laid hs (fun ⟨_, hne⟩ hr => ?_) h
  obtain ⟨d, ds, hds⟩ := List.exists_cons_of_ne_nil hne
  rw [hds] at hr
  obtain ⟨w, hf, hw⟩ := lvdtSlots_framed hr
  exact hs.record .lvdt (d :: ds) rfl hf (.slot d w rfl hw)

/-- Opening a block: its length word stands at or past the cursor, so at no recorded offset. -/
theorem openSubnet_laid {T : Topology} {i : Subnet} {s t : State} (hs : Laid T s) (h : openSubnet i s = .ok t) :
    Laid T t := by
  obtain ⟨-, hf, rfl⟩ := openSubnet_eq_ok.mp h
  set ws : List Word := [s.cfg.subnetCode[i], 0, s.cfg.swtrigWord]
  have hwords : Laid T (s.placed ws) := hs.appended (.placed hf)
  have hcursor : (s.placed ws).cursor.toNat = s.cursor.toNat + 3 := placed_cursor_toNat hf.2
  have hindex : (BitVec.ofNat 16 (s.cursor.toNat + 1)).toNat = s.cursor.toNat + 1 := by
    have hlast := hf.2
    rw [BitVec.toNat_ofNat]
    omega
  refine ⟨fun j k q hq => ?_, hwords.apart, fun b hb => ?_, hwords.room⟩
  · obtain ⟨hpos, hin, hfirst⟩ := hwords.stands j k q hq
    exact ⟨hpos, hin, hfirst⟩
  · cases hb
    rw [hindex]
    refine ⟨by simp only [hcursor]; omega, fun j k q hq => ?_⟩
    have hbefore := (hs.stands j k q hq).offset_lt
    omega

/-- Closing a block: the length word is poked at no recorded offset. -/
theorem closeSubnet_laid {T : Topology} {s t : State} (hs : Laid T s) (h : closeSubnet s = .ok t) : Laid T t := by
  obtain ⟨b, hb, hf, -, rfl⟩ := closeSubnet_eq_ok.mp h
  have hwords : Laid T (s.placed [s.cfg.irqtrigWord]) := hs.appended (.placed hf)
  obtain ⟨-, hoff⟩ := hwords.block b hb
  refine ⟨fun j k q hq => ?_, hwords.apart, nofun, hwords.room⟩
  obtain ⟨hpos, hin, w, hread, hw⟩ := hwords.stands j k q hq
  exact ⟨hpos, hin, w, (Memory.read_write_of_ne _ _ (hoff j k q hq)).trans hread, hw⟩

theorem Moves.profile {T : Topology} {b : Bool} {s t : State} (h : Moves T b s t) : t.profile = s.profile := by
  rw [State.profile, h.kept.cfg, h.kept.variant]

theorem buildSubnet_laid {T : Topology} {P : Profile} {inp : Inputs} {i : Subnet} {s t : State} (hs : Laid T s)
    (hP : s.profile = P) (h : buildSubnet T P inp i s = .ok t) : Laid T t := by
  obtain ⟨s1, hopen, h⟩ := bind_eq_ok.mp h
  obtain ⟨s2, hfa, h⟩ := ite_bind_eq_ok.mp h
  obtain ⟨s3, hhp, h⟩ := ite_bind_eq_ok.mp h
  obtain ⟨s4, hhm, h⟩ := ite_bind_eq_ok.mp h
  obtain ⟨s5, hlvdt, hclose⟩ := ite_bind_eq_ok.mp h
  have hmoves : Moves T true s s2 := (openSubnet_moves hopen).trans (ite_moves (fun _ => faSection_moves) hfa)
  have h1 : Laid T s1 := openSubnet_laid hs hopen
  have h2 : Laid T s2 := ite_laid h1 (fun _ => faSection_laid h1) hfa
  have h3 : Laid T s3 := ite_laid h2 (fun _ => hpSection_laid h2 (hmoves.profile.trans hP)) hhp
  have h4 : Laid T s4 := ite_laid h3 (fun _ => hmSection_laid h3) hhm
  have h5 : Laid T s5 := ite_laid h4 (fun _ => lvdtSection_laid h4) hlvdt
  exact closeSubnet_laid h5 hclose

/-- `BUILD` starts with nothing recorded and the cursor at 0 (47_buslist R261). -/
theorem laid_buildInit {T : Topology} {x : Variant} {s : State} (hopen : s.openBlock = none) : Laid T (buildInit x s) := by
  have hnone : ∀ (i : Subnet) (k : PatchKind), (buildInit x s).sub[i].recorded k = none := by
    intro i k
    cases k <;> simp [SubnetRegs.recorded, SubnetRegs.initial]
  refine ⟨fun i k q hq => ?_, fun i k q _ _ _ _ hq => ?_, fun b hb => ?_, Nat.zero_le _⟩
  · exact nomatch (hnone i k).symm.trans hq
  · exact nomatch (hnone i k).symm.trans hq
  · exact nomatch hopen.symm.trans hb

/-- A `BUILD` that completes is the five blocks run on a cleared machine with no block open (47_buslist R260). -/
theorem buildSchedule_blocks {v : Byte} {inp : Inputs} {s t : State} (h : buildSchedule v inp s = .ok t) :
    ∃ T x u, s.topology = some T ∧ s.openBlock = none
      ∧ runAll (buildSubnet T (s.cfg.profiles.profile x) inp) subnets (buildInit x s) = .ok u ∧ t = buildFinish u := by
  unfold buildSchedule at h
  split at h
  · cases h
  · rename_i T x hT _ _
    split at h
    · rename_i hadm
      split at h
      · cases h
      · obtain ⟨u, hu, h⟩ := bind_eq_ok.mp h
        cases h
        exact ⟨T, x, u, hT, hadm.2, hu, rfl⟩
    · cases h
  · cases h

/-- Settles O46: each block of `BUILD` keeps the layout of the frames recorded so far, and the length is frozen at the cursor. No
legal configuration is needed. -/
theorem buildEstablishesTheLayout : Obligations.BuildEstablishesTheLayout := by
  intro s t v inp _ hexec hdone
  rcases finish_next.mp hexec with ⟨t', ht', rfl⟩ | ⟨e, -, rfl⟩
  · obtain ⟨T, x, u, hT, hopen, hrun, rfl⟩ := buildSchedule_blocks ht'
    have hmoves : Moves T true (buildInit x s) u := runAll_moves (fun _ _ _ hb => (buildSubnet_moves hb).1) hrun
    obtain ⟨hlaid, -⟩ := runAll_keeps (fun w => Laid T w ∧ w.profile = s.cfg.profiles.profile x)
      (fun _ _ _ hw hb => ⟨buildSubnet_laid hw.1 hw.2 hb, (buildSubnet_moves hb).1.profile.trans hw.2⟩) subnets
      (buildInit x s) u ⟨laid_buildInit hopen, rfl⟩ hrun
    exact hlaid.layout_buildFinish (hmoves.kept.topology.trans hT)
  · cases hdone

end Sys2Proof.Machine
end

section
/-! Operations at the port (30_encoding R95): decoding what the encoder presents, operand by operand. The layout of the lanes is
the model's (log 4). -/

namespace Sys2Proof

/-! ## Operands read back -/

/-- A reader reads a value from the lanes written for it, and leaves the lanes after them. -/
def ReadsBack {α : Type} (p : Parse α) (lanes : List Byte) (a : α) : Prop := ∀ bs, p (lanes ++ bs) = .ok (a, bs)

theorem bytes_readsBack {d : List Byte} (h : listFits (fun _ => true) d = true) :
    ReadsBack (takeCounted takeByte) (putCounted putByte d) d :=
  takeCounted_putCounted (fun b bs _ => takeByte_putByte b bs) h

theorem ints_readsBack {zs : List Int} (h : listFits intFits zs = true) :
    ReadsBack (takeCounted takeInt) (putCounted putInt zs) zs :=
  takeCounted_putCounted (fun _ bs hz => takeInt_putInt hz bs) h

theorem maps_readsBack {ds : List ILCMap} (h : listFits ILCMap.fits ds = true) :
    ReadsBack (takeCounted takeMap) (putCounted putMap ds) ds :=
  takeCounted_putCounted (fun _ bs hd => takeMap_putMap hd bs) h

/-! ## Operations by their number of operands -/

section Args
variable {α β γ δ ε : Type} {p : Parse α} {q : Parse β} {r : Parse γ} {t : Parse δ} {u : Parse ε}
variable {la lb lc ld le : List Byte} {a : α} {b : β} {c : γ} {d : δ} {e : ε}

theorem args1_readsBack {f : α → Instr} (ha : ReadsBack p la a) : args1 f p la = .ok (f a) := by
  have h := ha []
  rw [List.append_nil] at h
  rw [args1, h]
  rfl

theorem args2_readsBack {f : α → β → Instr} (ha : ReadsBack p la a) (hb : ReadsBack q lb b) :
    args2 f p q (la ++ lb) = .ok (f a b) := by
  rw [args2, ha]
  exact args1_readsBack hb

theorem args3_readsBack {f : α → β → γ → Instr} (ha : ReadsBack p la a) (hb : ReadsBack q lb b)
    (hc : ReadsBack r lc c) : args3 f p q r (la ++ lb ++ lc) = .ok (f a b c) := by
  rw [List.append_assoc, args3, ha]
  exact args2_readsBack hb hc

theorem args4_readsBack {f : α → β → γ → δ → Instr} (ha : ReadsBack p la a) (hb : ReadsBack q lb b)
    (hc : ReadsBack r lc c) (hd : ReadsBack t ld d) :
    args4 f p q r t (la ++ lb ++ lc ++ ld) = .ok (f a b c d) := by
  rw [List.append_assoc, List.append_assoc, args4, ha, ← List.append_assoc]
  exact args3_readsBack hb hc hd

theorem args5_readsBack {f : α → β → γ → δ → ε → Instr} (ha : ReadsBack p la a) (hb : ReadsBack q lb b)
    (hc : ReadsBack r lc c) (hd : ReadsBack t ld d) (he : ReadsBack u le e) :
    args5 f p q r t u (la ++ lb ++ lc ++ ld ++ le) = .ok (f a b c d e) := by
  rw [List.append_assoc, List.append_assoc, List.append_assoc, args5, ha, ← List.append_assoc, ← List.append_assoc]
  exact args4_readsBack hb hc hd he

end Args

/-! ## The operations -/

/-- An operation is presented as its code and its operand lanes (30_encoding R95, log 4). -/
theorem decode_encode_operation (c : Config) {i : Instr} (hop : (opcode i).isSome = true) :
    decode c (encode c i) = decodeCode ((opcode i).get hop) (operandBytes i) := by
  cases i with
  | wData | wEof | wTimestamp | wDelayUs | wDelayMs | wWaitrxUs | wIrqtrig | wSwtrig | wWaitrxMs | wRxEof => cases hop
  | _ => rfl

/-- The code selects the readers that read back each operand from its lanes. -/
theorem decodeCode_operandBytes {i : Instr} (hwf : i.wellFormed = true) (hop : (opcode i).isSome = true) :
    decodeCode ((opcode i).get hop) (operandBytes i) = .ok i := by
  cases i with
  | wData | wEof | wTimestamp | wDelayUs | wDelayMs | wWaitrxUs | wIrqtrig | wSwtrig | wWaitrxMs | wRxEof => cases hop
  | getIndex | reset | getLength | readRaw | writeEof | writeTimestamp | writeSwtrigger | writeIrqtrigger | readU8
  | readI8 | readI16 | readI24 | readI32 | readU16 | readU32 | readSgl | readDbl | readCrc | endOfFrame | endOfBuffer
  | closeSubnet => rfl
  | writeU8 v | writeI8 v | bcastInc v | lvdtStep v | openSubnet v => exact args1_readsBack (takeByte_putByte v)
  | setIndex v | incIndex v | setLength v | writeRaw v | writeI16 v | writeU16 v | writeCrc v | frameNop v =>
    exact args1_readsBack (take16_put16 v)
  | writeI24 v | writeI32 v | writeU32 v | writeSgl v | writeDelay v | writeWaitrx v =>
    exact args1_readsBack (take32_put32 v)
  | writeDbl v => exact args1_readsBack (take64_put64 v)
  | poke j w => exact args2_readsBack (take16_put16 j) (take16_put16 w)
  | frameUnicast a f d T | frameBroadcast a f d T =>
    exact args4_readsBack (takeByte_putByte a) (takeByte_putByte f) (bytes_readsBack hwf) (take32_put32 T)
  | frameCmd k a args => exact args3_readsBack (takeCmd_putCmd k) (takeByte_putByte a) (ints_readsBack hwf)
  | rrInc index count =>
    obtain ⟨hindex, hcount⟩ := Bool.and_eq_true_iff.mp hwf
    exact args2_readsBack (takeNat_putNat hindex) (takeNat_putNat hcount)
  | loadTopology ds => exact args1_readsBack (maps_readsBack hwf)
  | setDisabled k j b => exact args3_readsBack (takeClass_putClass k) (takeNat_putNat hwf) (takeBit_putBit b)
  | build v primary secondary slew steps =>
    obtain ⟨hsetpoints, hsteps⟩ := Bool.and_eq_true_iff.mp hwf
    obtain ⟨hprimary, hsecondary⟩ := Bool.and_eq_true_iff.mp hsetpoints
    exact args5_readsBack (takeByte_putByte v) (ints_readsBack hprimary) (ints_readsBack hsecondary)
      (takeBit_putBit slew) (ints_readsBack hsteps)
  | update primary secondary slew steps =>
    obtain ⟨hsetpoints, hsteps⟩ := Bool.and_eq_true_iff.mp hwf
    obtain ⟨hprimary, hsecondary⟩ := Bool.and_eq_true_iff.mp hsetpoints
    exact args4_readsBack (ints_readsBack hprimary) (ints_readsBack hsecondary) (takeBit_putBit slew)
      (ints_readsBack hsteps)
  | getExpected k j => exact args2_readsBack (takeClass_putClass k) (takeNat_putNat hwf)

/-- Settles O1: each operation is read back by the readers of its operands, one reader for each operand. -/
theorem operationDecodesBackToItself : Obligations.OperationDecodesBackToItself := by
  intro c i hwf hop
  rw [decode_encode_operation c hop]
  exact decodeCode_operandBytes hwf hop

end Sys2Proof
end

section
/-! Wire words (30_encoding R81 to R92): the classifier and the decoder of words under a legal configuration, the durations
they denote, and that the block does not execute them. -/

namespace Sys2Proof
open Sys2Proof.Machine

/-! ## The classifier -/

/-- The kinds of wire word, in the order of 30_encoding R85. -/
def WireKind.all : List WireKind :=
  [.data, .eof, .timestamp, .delayUs, .delayMs, .waitrxUs, .irqtrig, .swtrig, .waitrxMs, .rxEof]

theorem WireKind.mem_all (k : WireKind) : k ∈ WireKind.all := by cases k <;> decide

/-- The high nibble of a kind of wire word (30_encoding R85). -/
def WireKind.highNibble (c : Config) : WireKind → BitVec 4
  | .data => nibble c.dataTag
  | .eof => nibble c.eofWord
  | .timestamp => nibble c.timestampWord
  | .delayUs => 4#4
  | .delayMs => 5#4
  | .waitrxUs => 6#4
  | .irqtrig => nibble c.irqtrigWord
  | .swtrig => nibble c.swtrigWord
  | .waitrxMs => 9#4
  | .rxEof => nibble c.rxEofWord

theorem Config.nibbles_eq_map (c : Config) : c.nibbles = WireKind.all.map (WireKind.highNibble c) := rfl

theorem Config.parametersLegal_nibbles {c : Config} (h : c.parametersLegal = true) : c.nibbles.Nodup := by
  simp only [Config.parametersLegal, Bool.and_eq_true, decide_eq_true_eq] at h
  exact h.2

/-- The ten kinds are told apart by their high nibbles (30_encoding R85). -/
theorem WireKind.highNibble_injective {c : Config} (hc : c.parametersLegal = true) :
    Function.Injective (WireKind.highNibble c) := by
  intro k l h
  have hnodup := Config.parametersLegal_nibbles hc
  rw [Config.nibbles_eq_map] at hnodup
  exact List.inj_on_of_nodup_map hnodup k.mem_all l.mem_all h

theorem find?_cons_decide {α : Type} (P : α → Prop) [DecidablePred P] (a : α) (l : List α) :
    (a :: l).find? (fun k => decide (P k)) = if P a then some a else l.find? (fun k => decide (P k)) := by
  by_cases h : P a <;> simp [h]

/-- The classifier answers the first kind that has the word's high nibble. -/
theorem classify_eq_find? (c : Config) (w : Word) :
    classify c w = WireKind.all.find? (fun k => decide (nibble w = k.highNibble c)) := by
  simp only [WireKind.all, find?_cons_decide]
  rfl

theorem classify_eq_none {c : Config} {w : Word} : classify c w = none ↔ nibble w ∉ c.nibbles := by
  rw [classify_eq_find?, List.find?_eq_none, Config.nibbles_eq_map]
  simp [eq_comm]

/-- The kind answered has the word's high nibble, and under distinct nibbles it is the only one that has. -/
theorem classify_eq_some {c : Config} (hc : c.parametersLegal = true) {w : Word} {k : WireKind} :
    classify c w = some k ↔ nibble w = k.highNibble c := by
  have found {l : WireKind} (hl : classify c w = some l) : nibble w = l.highNibble c := by
    rw [classify_eq_find?] at hl
    simpa using List.find?_some hl
  refine ⟨found, fun hk => ?_⟩
  cases hl : classify c w with
  | some l => rw [WireKind.highNibble_injective hc ((found hl).symm.trans hk)]
  | none =>
    refine absurd ?_ (classify_eq_none.mp hl)
    rw [hk, Config.nibbles_eq_map]
    exact List.mem_map_of_mem k.mem_all

/-- A word whose high nibble is unassigned is no wire word (30_encoding R92). -/
theorem decode_of_unassigned {c : Config} {w : Word} (h : nibble w ∉ c.nibbles) :
    decode c (.wireWord w) = .error (.noWireWord w) := by
  simp [decode, decodeWire, classify_eq_none.mpr h]

/-- Settles O6: under distinct nibbles the first kind found is the only one. -/
theorem classifierAnswersByHighNibble : Obligations.ClassifierAnswersByHighNibble := by
  intro c hc w
  exact ⟨classify_eq_some hc, classify_eq_some hc, classify_eq_some hc, classify_eq_some hc, classify_eq_some hc,
    classify_eq_some hc, classify_eq_some hc, classify_eq_some hc, classify_eq_some hc, classify_eq_some hc,
    fun h => ⟨classify_eq_none.mpr h, decode_of_unassigned h⟩⟩

/-! ## Words and their fields -/

theorem untag_toNat (w : Word) : (untag w).toNat = w.toNat / 2 % 256 := by
  simp [untag, BitVec.extractLsb'_toNat, Nat.shiftRight_eq_div_pow]

/-- Settles O7: the byte comes back out of the bits the tag leaves free, and those bits alone are read. -/
theorem untaggingIgnoresTheTag : Obligations.UntaggingIgnoresTheTag :=
  ⟨fun _ b h => untag_tag h b, untag_toNat⟩

theorem nibble_or (v w : Word) : nibble (v ||| w) = nibble v ||| nibble w := by
  simp [nibble, BitVec.extractLsb'_or]

theorem nibble_toNat (w : Word) : (nibble w).toNat = w.toNat / 4096 := by
  rw [nibble, BitVec.extractLsb'_toNat, Nat.shiftRight_eq_div_pow]
  omega

theorem nibble_eq_zero {w : Word} (h : w.toNat < 4096) : nibble w = 0#4 := by
  apply BitVec.eq_of_toNat_eq
  rw [nibble_toNat, Nat.div_eq_of_lt h]
  rfl

/-- The byte of a data word reaches no bit of the high nibble. -/
theorem nibble_tag (c : Config) (b : Byte) : nibble (tag c b) = nibble c.dataTag := by
  have hb : (b.setWidth 16 <<< 1 : Word).toNat < 4096 := by
    rw [BitVec.toNat_shiftLeft, BitVec.toNat_setWidth, Nat.shiftLeft_eq]
    omega
  rw [tag, nibble_or, nibble_eq_zero hb, BitVec.or_zero]

/-- Nor does the argument of a control word. -/
theorem nibble_controlWord (base : Word) (v : BitVec 12) : nibble (controlWord base v) = nibble base := by
  have hv : (v.setWidth 16 : Word).toNat < 4096 := by
    rw [BitVec.toNat_setWidth]
    omega
  rw [controlWord, nibble_or, nibble_eq_zero hv, BitVec.or_zero]

/-- A word is its high nibble and its low twelve bits. -/
theorem word_ext {v w : Word} (hn : nibble v = nibble w) (hl : v.setWidth 12 = w.setWidth 12) : v = w := by
  apply BitVec.eq_of_toNat_eq
  have hn' := congrArg BitVec.toNat hn
  have hl' := congrArg BitVec.toNat hl
  simp only [nibble_toNat, BitVec.toNat_setWidth] at hn' hl'
  omega

theorem controlWord_setWidth {base : Word} (hb : base.setWidth 12 = 0#12) (v : BitVec 12) :
    (controlWord base v).setWidth 12 = v := by
  rw [controlWord, BitVec.setWidth_or, hb]
  simp

/-- A control word is rebuilt from its argument (30_encoding R84). -/
theorem controlWord_eq {base w : Word} (hb : base.setWidth 12 = 0#12) (hw : nibble w = nibble base) :
    controlWord base (w.setWidth 12) = w :=
  word_ext ((nibble_controlWord base _).trans hw.symm) (controlWord_setWidth hb _)

/-- The bits 8:1 that carry the byte of a data word (30_encoding R82). -/
theorem byteMask_getLsbD : ∀ i < 16, (0x01FE#16).getLsbD i = (decide (1 ≤ i) && decide (i < 9)) := by decide

/-- A bit of a data word: the byte's inside the byte's bits, and the tag's. -/
theorem tag_getLsbD (c : Config) (b : Byte) {i : Nat} (hi : i < 16) :
    (tag c b).getLsbD i = (c.dataTag.getLsbD i || ((0x01FE#16).getLsbD i && b.getLsbD (i - 1))) := by
  have hb : b.getLsbD (i - 1) = (decide (i < 9) && b.getLsbD (i - 1)) := by
    by_cases h : i < 9
    · simp [h]
    · simp [BitVec.getLsbD_of_ge b (i - 1) (by omega)]
  rw [tag, BitVec.getLsbD_or, byteMask_getLsbD i hi, Bool.and_assoc, ← hb, BitVec.getLsbD_shiftLeft,
    BitVec.getLsbD_setWidth]
  simp [hi, show i - 1 < 16 by omega, Nat.one_le_iff_ne_zero]

/-- The bits of a data word that carry no byte are the tag's (30_encoding R82). -/
theorem tag_and_not_byteMask {c : Config} (h : c.dataTag &&& 0x01FE#16 = 0#16) (b : Byte) :
    tag c b &&& ~~~0x01FE#16 = c.dataTag := by
  apply BitVec.eq_of_getLsbD_eq
  intro i hi
  have hd : (c.dataTag.getLsbD i && (0x01FE#16).getLsbD i) = false := by rw [← BitVec.getLsbD_and, h]; simp
  rw [BitVec.getLsbD_and, tag_getLsbD c b hi, BitVec.getLsbD_not]
  cases hm : (0x01FE#16).getLsbD i with
  | false => simp [hi]
  | true =>
    have htag : c.dataTag.getLsbD i = false := by simpa [hm] using hd
    simp [htag]

/-- A data word is rebuilt from its byte (30_encoding R82, R83). -/
theorem tag_untag {c : Config} {w : Word} (h : w &&& ~~~0x01FE#16 = c.dataTag) : tag c (untag w) = w := by
  apply BitVec.eq_of_getLsbD_eq
  intro i hi
  rw [tag_getLsbD c _ hi, ← h, BitVec.getLsbD_and, BitVec.getLsbD_not]
  cases hm : (0x01FE#16).getLsbD i with
  | false => simp [hi]
  | true =>
    have hbyte : 1 ≤ i ∧ i < 9 := by simpa [byteMask_getLsbD i hi] using hm
    simp [untag, show 1 + (i - 1) = i by omega, show i - 1 < 8 by omega]

/-! ## The decoder of words -/

theorem ite_ok_eq_ok {matched : Prop} [Decidable matched] {i j : Instr} {e : DecodeError} :
    (if matched then .ok i else .error e : Except DecodeError Instr) = .ok j ↔ matched ∧ i = j := by
  split <;> simp [*]

/-- The row that a word's nibble selects describes the word: it is what the encoder makes of the instruction read. -/
theorem encodeWire_of_decodeWire {c : Config} (hc : c.parametersLegal = true) {w : Word} {i : Instr}
    (h : decodeWire c w = .ok i) : encodeWire c i = some w := by
  unfold decodeWire at h
  cases hk : classify c w with
  | none =>
    rw [hk] at h
    cases h
  | some k =>
    have hn := (classify_eq_some hc).mp hk
    rw [hk] at h
    cases k with
    | data =>
      obtain ⟨hw, rfl⟩ := ite_ok_eq_ok.mp h
      exact congrArg some (tag_untag hw)
    | eof | timestamp | irqtrig | swtrig | rxEof =>
      obtain ⟨rfl, rfl⟩ := ite_ok_eq_ok.mp h
      rfl
    | delayUs | delayMs | waitrxUs | waitrxMs =>
      cases h
      exact congrArg some (controlWord_eq rfl hn)

/-- The kind of wire word an instruction is, if it is one (30_encoding R85). -/
def wireKind : Instr → Option WireKind
  | .wData _ => some .data
  | .wEof => some .eof
  | .wTimestamp => some .timestamp
  | .wDelayUs _ => some .delayUs
  | .wDelayMs _ => some .delayMs
  | .wWaitrxUs _ => some .waitrxUs
  | .wIrqtrig => some .irqtrig
  | .wSwtrig => some .swtrig
  | .wWaitrxMs _ => some .waitrxMs
  | .wRxEof => some .rxEof
  | _ => none

/-- An instruction's word has the high nibble of the instruction's kind (30_encoding R82, R84, R86). -/
theorem nibble_of_encodeWire {c : Config} {w : Word} {i : Instr} (h : encodeWire c i = some w) :
    ∃ k, wireKind i = some k ∧ nibble w = k.highNibble c := by
  cases i with
  | wData b => cases h; exact ⟨_, rfl, nibble_tag c b⟩
  | wEof | wTimestamp | wIrqtrig | wSwtrig | wRxEof => cases h; exact ⟨_, rfl, rfl⟩
  | wDelayUs v | wDelayMs v | wWaitrxUs v | wWaitrxMs v => cases h; exact ⟨_, rfl, nibble_controlWord _ v⟩
  | _ => cases h

/-- The nibble of an instruction's word selects its row, and the word matches the row's fixed bits. -/
theorem decodeWire_of_encodeWire {c : Config} (hc : c.parametersLegal = true) {w : Word} {i : Instr}
    (h : encodeWire c i = some w) : decodeWire c w = .ok i := by
  obtain ⟨k, hk, hn⟩ := nibble_of_encodeWire h
  rw [decodeWire, (classify_eq_some hc).mpr hn]
  cases i with
  | wData b =>
    cases hk
    cases h
    have htag := Config.parametersLegal_tag hc
    exact ite_ok_eq_ok.mpr ⟨tag_and_not_byteMask htag b, congrArg _ (untag_tag htag b)⟩
  | wEof | wTimestamp | wIrqtrig | wSwtrig | wRxEof => cases hk; cases h; exact if_pos rfl
  | wDelayUs v | wDelayMs v | wWaitrxUs v | wWaitrxMs v =>
    cases hk
    cases h
    dsimp only
    rw [controlWord_setWidth rfl]
  | _ => cases h

/-- Settles O2: the nibble selects the row, and the row's fixed bits and argument make up the word. -/
theorem wireWordDecodesExactlyToItsInstruction : Obligations.WireWordDecodesExactlyToItsInstruction :=
  fun _ hc _ _ => ⟨encodeWire_of_decodeWire hc, decodeWire_of_encodeWire hc⟩

/-! ## Durations -/

/-- A control word with the nibble of a kind is of that kind, whatever its argument. -/
theorem classify_controlWord {c : Config} (hc : c.parametersLegal = true) {base : Word} {k : WireKind}
    (hb : nibble base = k.highNibble c) (v : BitVec 12) : classify c (controlWord base v) = some k :=
  (classify_eq_some hc).mpr ((nibble_controlWord base v).trans hb)

theorem wireDuration_delayUs {c : Config} (hc : c.parametersLegal = true) (v : BitVec 12) :
    wireDuration c (controlWord delayUsOp v) = some v.toNat := by
  rw [wireDuration, classify_controlWord hc (k := .delayUs) rfl, controlWord_setWidth rfl]

theorem wireDuration_waitrxUs {c : Config} (hc : c.parametersLegal = true) (v : BitVec 12) :
    wireDuration c (controlWord waitrxUsOp v) = some v.toNat := by
  rw [wireDuration, classify_controlWord hc (k := .waitrxUs) rfl, controlWord_setWidth rfl]

theorem wireDuration_delayMs {c : Config} (hc : c.parametersLegal = true) (v : BitVec 12) :
    wireDuration c (controlWord delayMsOp v) = some (v.toNat * 1000) := by
  rw [wireDuration, classify_controlWord hc (k := .delayMs) rfl, controlWord_setWidth rfl]

theorem wireDuration_waitrxMs {c : Config} (hc : c.parametersLegal = true) (v : BitVec 12) :
    wireDuration c (controlWord waitrxMsOp v) = some (v.toNat * 1000) := by
  rw [wireDuration, classify_controlWord hc (k := .waitrxMs) rfl, controlWord_setWidth rfl]

/-- A number below 4096 put beside an opcode is its argument. -/
theorem or_ofNat_eq_controlWord (base : Word) {n : Nat} (h : n < 4096) :
    base ||| BitVec.ofNat 16 n = controlWord base (BitVec.ofNat 12 n) := by
  have hn : BitVec.ofNat 16 n = (BitVec.ofNat 12 n).setWidth 16 := by
    apply BitVec.eq_of_toNat_eq
    simp only [BitVec.toNat_ofNat, BitVec.toNat_setWidth]
    omega
  rw [hn, controlWord]

theorem toNat_ofNat_twelve {n : Nat} (h : n < 4096) : (BitVec.ofNat 12 n).toNat = n := by
  rw [BitVec.toNat_ofNat, Nat.mod_eq_of_lt h]

/-- Below 4096 a duration is encoded in microseconds, as it is (30_encoding R87). -/
theorem wireDuration_us {c : Config} (hc : c.parametersLegal = true) {T : BitVec 32} (h : T.toNat < 4096) :
    wireDuration c (delayWord T) = some T.toNat ∧ wireDuration c (waitWord T) = some T.toNat := by
  have hus : T.toNat < usLimit := h
  rw [delayWord, if_pos hus, waitWord, if_pos hus, or_ofNat_eq_controlWord _ h, or_ofNat_eq_controlWord _ h,
    wireDuration_delayUs hc, wireDuration_waitrxUs hc, toNat_ofNat_twelve h]
  exact ⟨rfl, rfl⟩

/-- From 4096 on a duration is encoded in whole milliseconds, one more than it has (30_encoding R87). -/
theorem wireDuration_ms {c : Config} (hc : c.parametersLegal = true) {T : BitVec 32} (h : 4096 ≤ T.toNat)
    (hmax : T.toNat ≤ 4094999) :
    wireDuration c (delayWord T) = some ((T.toNat / 1000 + 1) * 1000)
      ∧ wireDuration c (waitWord T) = some ((T.toNat / 1000 + 1) * 1000) := by
  have hus : ¬ T.toNat < usLimit := Nat.not_lt.mpr h
  have hms : T.toNat / 1000 + 1 < 4096 := by omega
  rw [delayWord, if_neg hus, waitWord, if_neg hus, or_ofNat_eq_controlWord _ hms, or_ofNat_eq_controlWord _ hms,
    wireDuration_delayMs hc, wireDuration_waitrxMs hc, toNat_ofNat_twelve hms]
  exact ⟨rfl, rfl⟩

/-- Settles O8: what the words denote, and the arithmetic of whole milliseconds. -/
theorem durationsAreEncodedAndDecoded : Obligations.DurationsAreEncodedAndDecoded := by
  intro c hc
  refine ⟨fun v => ⟨wireDuration_delayUs hc v, wireDuration_waitrxUs hc v, wireDuration_delayMs hc v,
    wireDuration_waitrxMs hc v⟩, fun T h => wireDuration_us hc h, fun T _ => by omega, fun T h hmax => ?_⟩
  obtain ⟨hdelay, hwait⟩ := wireDuration_ms hc h hmax
  exact ⟨hdelay, hwait, by omega, by omega, by omega, by omega⟩

/-! ## Words and codes written out -/

/-- Settles O3: each word and each code, decoded by evaluation. -/
theorem writtenOutWordsDecode : Obligations.WrittenOutWordsDecode :=
  ⟨rfl, rfl, rfl, rfl, rfl, rfl, rfl⟩

/-! ## Wire words and the block (30_encoding R92) -/

/-- Settles O55: the meaning of each of the ten kinds is to leave the state alone. -/
theorem wireWordsChangeNothingInside : Obligations.WireWordsChangeNothingInside :=
  fun _ _ _ => ⟨rfl, rfl, rfl, rfl, rfl, rfl, rfl, rfl, rfl, rfl⟩

end Sys2Proof
end

section
/-! The subnet block (30_encoding R91; 47_buslist R250, R251): opening and closing it, and the words of an empty one. -/

namespace Sys2Proof.Machine

/-! ## Operations in sequence -/

@[simp] theorem execAll_nil (s : State) : execAll [] s = .next s := rfl

theorem execAll_cons {i : Instr} {is : List Instr} {s t : State} (h : exec i s = .next t) :
    execAll (i :: is) s = execAll is t := by
  rw [execAll, h]

/-! ## Stored words -/

theorem stores_writeAll (m : Memory) (a : Nat) (ws : List Word) : Stores m (m.writeAll a ws) a ws :=
  Memory.read_writeAll m a ws

/-- Storing a word inside a run of stored words replaces that word of the run. -/
theorem Stores.write {m m' : Memory} {a k : Nat} {ws : List Word} (h : Stores m m' a ws) (hk : k < ws.length) (w : Word) :
    Stores m (m'.write (a + k) w) a (ws.set k w) := by
  intro b
  rw [Memory.read_write, List.length_set, h b]
  by_cases hb : b = a + k
  · subst hb
    simp [hk]
  · rw [if_neg hb]
    split
    · rw [List.getElem?_set_ne (by omega)]
    · rfl

/-! ## Opening and closing -/

theorem subnetOf_ofNat (i : Subnet) : subnetOf (BitVec.ofNat 8 i.val) = some i := by
  revert i
  decide

/-- The block that `OPEN_SUBNET` opens: its length word is the second (47_buslist R250). -/
def State.blockAt (s : State) (i : Subnet) : OpenBlock :=
  { subnet := i, lenIndex := BitVec.ofNat 16 (s.cursor.toNat + 1) }

/-- The state after `OPEN_SUBNET` (47_buslist R250). -/
def State.blockOpened (s : State) (i : Subnet) : State :=
  { s.placed [s.cfg.subnetCode[i], 0, s.cfg.swtrigWord] with openBlock := some (s.blockAt i), out := .done }

/-- The state after `CLOSE_SUBNET` (47_buslist R251). -/
def State.blockClosed (s : State) (b : OpenBlock) : State :=
  { s.placed [s.cfg.irqtrigWord] with
    mem := (s.placed [s.cfg.irqtrigWord]).mem.write b.lenIndex.toNat
      (blockLength (s.placed [s.cfg.irqtrigWord]) b.lenIndex),
    openBlock := none, freeCount := s.freeCount + 1, out := .done }

@[simp] theorem State.blockOpened_cfg (s : State) (i : Subnet) : (s.blockOpened i).cfg = s.cfg := rfl
@[simp] theorem State.blockClosed_mem (s : State) (b : OpenBlock) : (s.blockClosed b).mem
    = (s.placed [s.cfg.irqtrigWord]).mem.write b.lenIndex.toNat
      (blockLength (s.placed [s.cfg.irqtrigWord]) b.lenIndex) := rfl

theorem exec_openSubnet {s : State} (i : Subnet) (hopen : s.openBlock = none) (hfit : Fits s 3) :
    exec (.openSubnet (BitVec.ofNat 8 i.val)) s = .next (s.blockOpened i) := by
  show execOpenSubnet _ s = _
  rw [execOpenSubnet, subnetOf_ofNat]
  exact finish_next.mpr (.inl ⟨_, openSubnet_eq_ok.mpr ⟨hopen, hfit, rfl⟩, rfl⟩)

theorem exec_closeSubnet {s : State} {b : OpenBlock} (hopen : s.openBlock = some b) (hfit : Fits s 1)
    (hlen : b.lenIndex.toNat < s.cfg.capacity) : exec .closeSubnet s = .next (s.blockClosed b) :=
  finish_next.mpr (.inl ⟨_, closeSubnet_eq_ok.mpr ⟨b, hopen, hfit, hlen, rfl⟩, rfl⟩)

/-- The length word counts what lies between itself and the cursor (47_buslist R251). -/
theorem blockLength_eq {s : State} {a : Index} (h : a.toNat + 1 ≤ s.cursor.toNat) :
    blockLength s a = BitVec.ofNat 16 (s.cursor.toNat - a.toNat - 1) :=
  if_pos h

/-! ## The empty block -/

theorem Fits.mono {s : State} {m n : Nat} (h : Fits s n) (hm : m ≤ n) : Fits s m := by
  obtain ⟨hcap, hlast⟩ := h
  exact ⟨by omega, by omega⟩

theorem blockAt_lenIndex_toNat {s : State} (i : Subnet) (hfit : Fits s 3) :
    (s.blockAt i).lenIndex.toNat = s.cursor.toNat + 1 := by
  have hlast := hfit.2
  simp only [State.blockAt, BitVec.toNat_ofNat]
  omega

theorem blockOpened_cursor_toNat {s : State} (i : Subnet) (hfit : Fits s 3) :
    (s.blockOpened i).cursor.toNat = s.cursor.toNat + 3 :=
  placed_cursor_toNat hfit.2

theorem blockOpened_fits {s : State} (i : Subnet) (hfit : Fits s 4) : Fits (s.blockOpened i) 1 := by
  have hcursor := blockOpened_cursor_toNat i (hfit.mono (by omega))
  obtain ⟨hcap, hlast⟩ := hfit
  exact ⟨by rw [State.blockOpened_cfg, hcursor]; exact hcap, by rw [hcursor]; exact hlast⟩

/-- The cursor past the last word of an empty block. -/
theorem blockOpened_placed_cursor_toNat {s : State} (i : Subnet) (hfit : Fits s 4) :
    ((s.blockOpened i).placed [s.cfg.irqtrigWord]).cursor.toNat = s.cursor.toNat + 4 := by
  have hlast := (blockOpened_fits i hfit).2
  rw [placed_cursor_toNat hlast, blockOpened_cursor_toNat i (hfit.mono (by omega))]
  rfl

/-- An empty block has two words after its length word (30_encoding R91). -/
theorem emptyBlock_length {s : State} (i : Subnet) (hfit : Fits s 4) :
    blockLength ((s.blockOpened i).placed [s.cfg.irqtrigWord]) (s.blockAt i).lenIndex = 2#16 := by
  have hcursor := blockOpened_placed_cursor_toNat i hfit
  have hindex := blockAt_lenIndex_toNat i (hfit.mono (by omega))
  have hcount : s.cursor.toNat + 4 - (s.cursor.toNat + 1) - 1 = 2 := by omega
  rw [blockLength_eq (by omega), hcursor, hindex, hcount]

/-- The words of an empty block: the length word, a placeholder when the block was opened, is 2 (30_encoding R91). -/
theorem emptyBlock_stores {s : State} (i : Subnet) (hfit : Fits s 4) :
    Stores s.mem ((s.blockOpened i).blockClosed (s.blockAt i)).mem s.cursor.toNat
      [s.cfg.subnetCode[i], 2#16, s.cfg.swtrigWord, s.cfg.irqtrigWord] := by
  have hopenFit : Fits s 3 := hfit.mono (by omega)
  have hmem : ((s.blockOpened i).placed [s.cfg.irqtrigWord]).mem
      = s.mem.writeAll s.cursor.toNat [s.cfg.subnetCode[i], 0, s.cfg.swtrigWord, s.cfg.irqtrigWord] := by
    rw [State.placed_mem, blockOpened_cursor_toNat i hopenFit]
    exact (Memory.writeAll_append s.mem s.cursor.toNat [s.cfg.subnetCode[i], 0, s.cfg.swtrigWord] [s.cfg.irqtrigWord]).symm
  rw [State.blockClosed_mem, State.blockOpened_cfg, emptyBlock_length i hfit, hmem, blockAt_lenIndex_toNat i hopenFit]
  exact (stores_writeAll s.mem s.cursor.toNat _).write (k := 1) (by simp) 2#16

/-- Settles O38: both operations complete, and the length word poked last counts the two triggers. -/
theorem emptyBlockIsFourWords : Obligations.EmptyBlockIsFourWords := by
  intro s i hopen ⟨hroom, hcap⟩
  have hfit : Fits s 4 := ⟨hroom, by omega⟩
  have hopenFit : Fits s 3 := hfit.mono (by omega)
  have hlen : (s.blockAt i).lenIndex.toNat < (s.blockOpened i).cfg.capacity := by
    rw [blockAt_lenIndex_toNat i hopenFit, State.blockOpened_cfg]
    omega
  refine ⟨(s.blockOpened i).blockClosed (s.blockAt i), ?run, emptyBlock_stores i hfit,
    blockOpened_placed_cursor_toNat i hfit, rfl⟩
  case run =>
    rw [execAll_cons (exec_openSubnet i hopen hopenFit),
      execAll_cons (exec_closeSubnet rfl (blockOpened_fits i hfit) hlen), execAll_nil]

end Sys2Proof.Machine
end

section
/-! Cursor, length and raw words (40_cursor_ops): what the operations over the buffer do when they do not complete, the shape
every writer and every reader of words has, and the nine operations. -/

namespace Sys2Proof.Machine

/-! ## Writing and reading past the end, and words never written -/

/-- A write inside the buffer (00_scope R10). -/
theorem memWrite_ok {a : Nat} {ws : List Word} {s : State} (h : a + ws.length ≤ s.cfg.capacity) :
    memWrite a ws s = .ok { s with mem := s.mem.writeAll a ws } :=
  if_pos h

theorem memWrite_overrun {a : Nat} {ws : List Word} {s : State} (h : s.cfg.capacity < a + ws.length) :
    memWrite a ws s = .error (.fault .bufferOverrun) :=
  if_neg (Nat.not_le.mpr h)

theorem memRead_overrun {a n : Nat} {s : State} (h : s.cfg.capacity < a + n) :
    memRead a n s = .error (.fault .bufferOverrun) :=
  if_neg (Nat.not_le.mpr h)

/-- Inside the buffer a word never written is met after the bounds (60_exceptions R305). -/
theorem memRead_unwritten {a n : Nat} {s : State} (h : a + n ≤ s.cfg.capacity) (hun : Unwritten s.mem a n) :
    memRead a n s = .error (.fault .uninitialisedRead) := by
  have hnone : s.mem.readAll a n = none := (Memory.readAll_eq_none s.mem a n).mpr hun
  rw [memRead, if_pos h, hnone]

/-- Past `CAPACITY` a writer overruns, whatever the capacity is. -/
theorem emit_overrun {ws : List Word} {s : State} (h : s.cfg.capacity < s.cursor.toNat + ws.length) :
    emit ws s = .error (.fault .bufferOverrun) :=
  bind_eq_error.mpr (.inl (memWrite_overrun h))

theorem fetch_ok {n : Nat} {s : State} {ws : List Word} (hlen : ws.length = n) (hfit : Fits s n)
    (hws : Holds s.mem s.cursor.toNat ws) :
    fetch n s = .ok (ws, { s with cursor := BitVec.ofNat 16 (s.cursor.toNat + n) }) := by
  subst hlen
  exact fetch_eq_ok.mpr ⟨hfit, (Memory.readAll_eq_some _ _ _ _).mpr ⟨rfl, hws⟩, rfl⟩

/-- A reader stops where its access to the buffer stops. -/
theorem fetch_error {n : Nat} {s : State} {e : Stop} (h : memRead s.cursor.toNat n s = .error e) :
    fetch n s = .error e :=
  bind_eq_error.mpr (.inl h)

theorem Room.fits {s : State} {n : Nat} (h : Room s n) : Fits s n :=
  ⟨h.1, h.1.trans h.2⟩

/-! ## Writers and readers of words -/

/-- An operation that emits words is a writer of those words. -/
theorem writes_of_emit {i : Instr} {s : State} {ws : List Word} (hi : exec i s = finish s (emit ws s)) :
    Writes i s ws := by
  refine ⟨fun hroom => ?_, fun hover => ?_⟩
  · refine ⟨s.mem.writeAll s.cursor.toNat ws, stores_writeAll s.mem s.cursor.toNat ws, ?_⟩
    rw [hi, emit_ok hroom.1 hroom.2, finish_ok, State.placed]
  · rw [hi, emit_overrun hover, finish_fault]

/-- An operation that fetches words and answers a value of them is a reader of those words. -/
theorem readsWords_of_fetch {i : Instr} {s : State} {n : Nat} {value : List Word → Result}
    (hi : exec i s = answer s (do let (ws, t) ← fetch n s; .ok (value ws, t))) : ReadsWords i s n value := by
  refine ⟨fun ws hlen hroom hws => ?_, fun hover => ?_, fun hin hun => ?_⟩
  · rw [Reads, hi, fetch_ok hlen hroom.fits hws]
    rfl
  · rw [hi, fetch_error (memRead_overrun hover)]
    rfl
  · rw [hi, fetch_error (memRead_unwritten hin hun)]
    rfl

/-! ## The cursor and the length -/

/-- Settles O9: the result is the register as it stands, and the state answered is the one issued in. -/
theorem indexAndLengthAreReturned : Obligations.IndexAndLengthAreReturned :=
  ⟨rfl, rfl, fun _ => ⟨rfl, rfl⟩⟩

/-- Settles O10: each of the three is one assignment without a bound on its operand. -/
theorem seekResetAndSetLengthWriteOneRegister : Obligations.SeekResetAndSetLengthWriteOneRegister :=
  ⟨fun _ => ⟨rfl, rfl⟩, rfl, fun _ _ => ⟨rfl, rfl, rfl⟩⟩

/-- An integer of the index range is the value of its index. -/
theorem toNat_ofInt_index {z : Int} (h : 0 ≤ z ∧ z ≤ 65535) : ((BitVec.ofInt 16 z).toNat : Int) = z := by
  obtain ⟨hlow, hhigh⟩ := h
  rw [BitVec.toNat_ofInt]
  omega

theorem exec_incIndex_inside {s : State} {n : BitVec 16} (h : 0 ≤ cursorPlus s n ∧ cursorPlus s n ≤ 65535) :
    exec (.incIndex n) s = .next { s with cursor := BitVec.ofInt 16 (cursorPlus s n), out := .done } := by
  show execIncIndex n s = _
  rw [execIncIndex, if_pos h, finish_ok, seek]

theorem exec_incIndex_outside {s : State} {n : BitVec 16} (h : ¬(0 ≤ cursorPlus s n ∧ cursorPlus s n ≤ 65535)) :
    exec (.incIndex n) s = .fault .indexRange := by
  show execIncIndex n s = _
  rw [execIncIndex, if_neg h, finish_fault]

/-- Settles O11: inside the index range the sum, taken in 16 bits, is the sum itself. -/
theorem incIndexAddsInsideTheIndexRange : Obligations.IncIndexAddsInsideTheIndexRange := by
  intro s n
  refine ⟨rfl, fun hin => ?_, fun hout => ?_⟩
  · exact ⟨BitVec.ofInt 16 (cursorPlus s n), toNat_ofInt_index hin, exec_incIndex_inside hin⟩
  · refine exec_incIndex_outside fun ⟨hlow, hhigh⟩ => ?_
    rw [cursorPlus] at hlow hhigh
    omega

/-! ## Raw words -/

/-- Settles O12: `WRITE_RAW` emits its word and nothing is put around it. -/
theorem writeRawStoresTheWordAsGiven : Obligations.WriteRawStoresTheWordAsGiven :=
  fun _ _ => ⟨rfl, writes_of_emit rfl⟩

/-- Settles O13: `READ_RAW` fetches one word and answers it whole. -/
theorem readRawReturnsTheWordAsStored : Obligations.ReadRawReturnsTheWordAsStored :=
  ⟨rfl, fun _ => readsWords_of_fetch rfl⟩

/-- Settles O14: `POKE` is one bounded write at its index, and no `advance` follows it. -/
theorem pokeStoresAtItsIndex : Obligations.PokeStoresAtItsIndex := by
  intro s i w
  have hexec : exec (.poke i w) s = finish s (memWrite i.toNat [w] s) := rfl
  refine ⟨rfl, fun hin => ?_, fun hout => ?_⟩
  · refine ⟨s.mem.writeAll i.toNat [w], stores_writeAll s.mem i.toNat [w], ?_⟩
    rw [hexec, memWrite_ok (ws := [w]) hin, finish_ok]
  · rw [hexec, memWrite_overrun (ws := [w]) (Nat.lt_succ_of_le hout), finish_fault]

end Sys2Proof.Machine
end

section
/-! Typed data writers (41_data_writers): what the bytes of a pattern read back as, the shape of the typed operations,
and the round trip of R141. -/

namespace Sys2Proof.Machine

/-! ## Bytes of a pattern, joined again -/

/-- Joining the bytes of a pattern to a number already read shifts that number past them. -/
theorem foldl_bytesBE {w : Nat} (p : BitVec w) (n acc : Nat) :
    (bytesBE p n).foldl (fun acc b => 256 * acc + b.toNat) acc = acc * 2 ^ (8 * n) + p.toNat % 2 ^ (8 * n) := by
  induction n generalizing acc with
  | zero => simp [bytesBE, Nat.mod_one]
  | succ n ih =>
    have hpow : 2 ^ (8 * (n + 1)) = 2 ^ (8 * n) * 256 := by rw [Nat.mul_succ, Nat.pow_add]
    have hbyte : (p.extractLsb' (8 * n) 8).toNat = p.toNat / 2 ^ (8 * n) % 256 := by
      rw [BitVec.extractLsb'_toNat, Nat.shiftRight_eq_div_pow]
    rw [bytesBE, List.foldl_cons, ih, hbyte, hpow, Nat.mod_mul]
    ring

/-- `zext` of the bytes of a pattern is the number its low bytes stand for. -/
theorem fromBE_bytesBE {w : Nat} (p : BitVec w) (n : Nat) : fromBE (bytesBE p n) = (p.setWidth (8 * n)).toNat := by
  rw [fromBE, foldl_bytesBE, Nat.zero_mul, Nat.zero_add, BitVec.toNat_setWidth]

theorem unsignedBE_bytesBE {w : Nat} (p : BitVec w) (n : Nat) :
    unsignedBE (bytesBE p n) = .unsigned (p.setWidth (8 * n)).toNat := by
  rw [unsignedBE, fromBE_bytesBE]

theorem signedBE_bytesBE {w : Nat} (p : BitVec w) (n : Nat) :
    signedBE (bytesBE p n) = .signed (p.setWidth (8 * n)).toInt := by
  rw [signedBE, fromBE_bytesBE, bytesBE_length, BitVec.ofNat_toNat, BitVec.setWidth_eq]

/-- Reading back every byte of a pattern: nothing is cut off or extended. -/
theorem unsignedBE_bytesBE_self {n : Nat} (p : BitVec (8 * n)) : unsignedBE (bytesBE p n) = .unsigned p.toNat := by
  rw [unsignedBE_bytesBE, BitVec.setWidth_eq]

theorem signedBE_bytesBE_self {n : Nat} (p : BitVec (8 * n)) : signedBE (bytesBE p n) = .signed p.toInt := by
  rw [signedBE_bytesBE, BitVec.setWidth_eq]

/-- The byte of a one-byte pattern is the pattern. -/
theorem bytesBE_byte (b : Byte) : bytesBE b 1 = [b] :=
  congrArg (fun c => [c]) BitVec.extractLsb'_eq_self

/-- The range of `I24`: there the low 24 bits, sign-extended, are the operand itself (41_data_writers R135, R141). -/
theorem toInt_setWidth_24 {v : BitVec 32} (hlow : -8388608 ≤ v.toInt) (hhigh : v.toInt ≤ 8388607) :
    (v.setWidth 24).toInt = v.toInt := by
  rw [← BitVec.signExtend_eq_setWidth_of_le v (by omega), BitVec.toInt_signExtend_eq_toInt_bmod_of_le v (by omega),
    Int.bmod_eq_of_le (by omega) (by omega)]

theorem map_untag_map_tag {c : Config} (h : c.dataTag &&& 0x01FE#16 = 0#16) (bs : List Byte) :
    (bs.map (tag c)).map untag = bs := by
  rw [List.map_map]
  exact (List.map_congr_left fun b _ => untag_tag h b).trans (List.map_id bs)

/-! ## Typed writers and readers -/

/-- A typed writer is a writer of the tagged bytes of its operand (41_data_writers R131). -/
theorem writes_of_writeTyped {i : Instr} {s : State} {w n : Nat} {p : BitVec w} (hi : exec i s = writeTyped n p s) :
    Writes i s ((bytesBE p n).map (tag s.cfg)) :=
  writes_of_emit hi

theorem writes_of_writeTyped_byte {i : Instr} {s : State} {b : Byte} (hi : exec i s = writeTyped 1 b s) :
    Writes i s [tag s.cfg b] := by
  have hwrites := writes_of_writeTyped hi
  rwa [bytesBE_byte] at hwrites

/-- Untagging the words fetched is all a typed reader does before it answers their value. -/
theorem readTyped_eq_fetch (n : Nat) (value : List Byte → Result) (s : State) :
    readTyped n value s = answer s (do let (ws, t) ← fetch n s; .ok (value (ws.map untag), t)) := by
  rw [readTyped, fetchBytes]
  cases fetch n s <;> rfl

/-- A typed reader is a reader of the words whose bytes it answers (44_readers R181). -/
theorem readsWords_of_readTyped {i : Instr} {s : State} {n : Nat} {value : List Byte → Result}
    (hi : exec i s = readTyped n value s) : ReadsWords i s n (fun ws => value (ws.map untag)) :=
  readsWords_of_fetch (hi.trans (readTyped_eq_fetch n value s))

/-- Settles O15: each writer is `writeTyped` at its width, and the bytes of its operand are those listed. -/
theorem typedWritersStoreBigEndianDataWords : Obligations.TypedWritersStoreBigEndianDataWords :=
  fun _ b h v q =>
    ⟨writes_of_writeTyped_byte (b := b) rfl, writes_of_writeTyped_byte (b := b) rfl,
      writes_of_writeTyped (n := 2) (p := h) rfl, writes_of_writeTyped (n := 3) (p := v) rfl,
      writes_of_writeTyped (n := 4) (p := v) rfl, writes_of_writeTyped (n := 2) (p := h) rfl,
      writes_of_writeTyped (n := 4) (p := v) rfl, writes_of_writeTyped (n := 4) (p := v) rfl,
      writes_of_writeTyped (n := 8) (p := q) rfl, rfl⟩

/-! ## Writing, then reading at the same offset -/

/-- Words just stored are the words held. -/
theorem Stores.holds {m m' : Memory} {a : Nat} {ws : List Word} (h : Stores m m' a ws) : Holds m' a ws := by
  intro k hk
  rw [h (a + k), if_pos (by omega), Nat.add_sub_cancel_left]

/-- A writer of some words, then, from where it began, a reader of as many, answers the value of the words written. -/
theorem roundTrips_of_writes_reads {write read : Instr} {s : State} {n : Nat} {ws : List Word}
    {value : List Word → Result} (hlen : ws.length = n) (hroom : Room s n)
    (hwrite : ∀ t : State, t.cfg = s.cfg → Writes write t ws) (hread : ∀ t : State, ReadsWords read t n value) :
    RoundTrips write read s n (value ws) := by
  subst hlen
  obtain ⟨hstore, -⟩ := hwrite { s with out := .result (.unsigned s.cursor.toNat) } rfl
  obtain ⟨m, hm, hwritten⟩ := hstore hroom
  obtain ⟨hfetch, -, -⟩ := hread { s with mem := m, out := .done }
  have hanswer := hfetch ws rfl hroom hm.holds
  have hlast := hroom.fits.2
  refine ⟨{ s with mem := m, cursor := BitVec.ofNat 16 (s.cursor.toNat + ws.length), out := .result (value ws) },
    ?run, rfl, ?cursor⟩
  case run =>
    exact (execAll_cons rfl).trans ((execAll_cons hwritten).trans ((execAll_cons rfl).trans (execAll_cons hanswer)))
  case cursor =>
    rw [BitVec.toNat_ofNat]
    omega

/-- A typed writer and a typed reader of the same width: the value answered is that of the bytes written. -/
theorem roundTrips_of_typed {write read : Instr} {s : State} {w n : Nat} {p : BitVec w} {value : List Byte → Result}
    {r : Result} (hwrite : ∀ t, exec write t = writeTyped n p t) (hread : ∀ t, exec read t = readTyped n value t)
    (hlegal : s.cfg.parametersLegal = true) (hroom : Room s n) (hvalue : value (bytesBE p n) = r) :
    RoundTrips write read s n r := by
  have htrip := roundTrips_of_writes_reads (ws := (bytesBE p n).map (tag s.cfg)) (by simp) hroom
    (fun t ht => ht ▸ writes_of_writeTyped (hwrite t)) (fun t => readsWords_of_readTyped (hread t))
  rwa [map_untag_map_tag (Config.parametersLegal_tag hlegal), hvalue] at htrip

/-- Settles O17: at every width the bytes written join to the operand again, and for `I24` they do so in its range. -/
theorem writeThenReadReturnsTheValue : Obligations.WriteThenReadReturnsTheValue := by
  intro s hlegal
  refine ⟨fun hroom b => ⟨?u8, ?i8⟩, fun hroom h => ⟨?u16, ?i16⟩, fun hroom v hlow hhigh => ?i24,
    fun hroom v => ⟨?u32, ?i32, ?sgl⟩, fun hroom q => ?dbl⟩
  case u8 => exact roundTrips_of_typed (fun _ => rfl) (fun _ => rfl) hlegal hroom (unsignedBE_bytesBE_self (n := 1) b)
  case i8 => exact roundTrips_of_typed (fun _ => rfl) (fun _ => rfl) hlegal hroom (signedBE_bytesBE_self (n := 1) b)
  case u16 => exact roundTrips_of_typed (fun _ => rfl) (fun _ => rfl) hlegal hroom (unsignedBE_bytesBE_self (n := 2) h)
  case i16 => exact roundTrips_of_typed (fun _ => rfl) (fun _ => rfl) hlegal hroom (signedBE_bytesBE_self (n := 2) h)
  case i24 =>
    have hvalue : signedBE (bytesBE v 3) = .signed v.toInt := by
      rw [signedBE_bytesBE, toInt_setWidth_24 hlow hhigh]
    exact roundTrips_of_typed (fun _ => rfl) (fun _ => rfl) hlegal hroom hvalue
  case u32 => exact roundTrips_of_typed (fun _ => rfl) (fun _ => rfl) hlegal hroom (unsignedBE_bytesBE_self (n := 4) v)
  case i32 => exact roundTrips_of_typed (fun _ => rfl) (fun _ => rfl) hlegal hroom (signedBE_bytesBE_self (n := 4) v)
  case sgl => exact roundTrips_of_typed (fun _ => rfl) (fun _ => rfl) hlegal hroom (unsignedBE_bytesBE_self (n := 4) v)
  case dbl => exact roundTrips_of_typed (fun _ => rfl) (fun _ => rfl) hlegal hroom (unsignedBE_bytesBE_self (n := 8) q)

end Sys2Proof.Machine
end

section
/-! The CRC (42_crc): the generator and its bit-serial form, the residue of a message with its CRC appended, and the two
operations. -/

namespace Sys2Proof.Machine

/-! ## The bit-serial generator -/

theorem crcShifts_succ (n : Nat) (c : BitVec 16) : crcShifts (n + 1) c = crcShifts n (crcShift c) := rfl

/-- Only bit 0 of what was combined into the register takes part in a shift; the rest moves down with it (42_crc R151). -/
theorem crcShift_xor (c x : BitVec 16) : crcShift (c ^^^ x) = crcBit c (x.getLsbD 0) ^^^ (x >>> 1) := by
  rw [crcShift, crcBit, BitVec.getLsbD_xor, BitVec.ushiftRight_xor_distrib]
  split
  · rw [BitVec.xor_assoc, BitVec.xor_assoc, BitVec.xor_comm (x >>> 1)]
  · rfl

/-- Combining a pattern into the register and shifting is feeding its low bits one at a time, lowest first. -/
theorem crcShifts_xor (n : Nat) (c x : BitVec 16) :
    crcShifts n (c ^^^ x) = ((List.range n).map x.getLsbD).foldl crcBit c ^^^ (x >>> n) := by
  induction n generalizing c x with
  | zero => simp [crcShifts]
  | succ n ih =>
    have hbits : (List.range n).map (x >>> 1).getLsbD = (List.range n).map (fun i => x.getLsbD (i + 1)) :=
      List.map_congr_left fun i _ => by rw [BitVec.getLsbD_ushiftRight, Nat.add_comm]
    rw [crcShifts_succ, crcShift_xor, ih, hbits, ← BitVec.shiftRight_add, Nat.add_comm 1 n, List.range_succ_eq_map,
      List.map_cons, List.map_map, List.foldl_cons]
    rfl

/-- A byte has no bits above its low eight. -/
theorem setWidth_ushiftRight_byte (b : Byte) : b.setWidth 16 >>> 8 = 0#16 := by
  bv_omega

/-- One byte into the register is its eight bits, lowest first (42_crc R150, R151). -/
theorem crcByte_eq_foldl (c : BitVec 16) (b : Byte) : crcByte c b = ((List.range 8).map b.getLsbD).foldl crcBit c := by
  have hbits : (List.range 8).map (b.setWidth 16).getLsbD = (List.range 8).map b.getLsbD :=
    List.map_congr_left fun i hi => by
      have hlow : i < 16 := by have := List.mem_range.mp hi; omega
      simp [hlow]
  rw [crcByte, crcShifts_xor, hbits, setWidth_ushiftRight_byte, BitVec.xor_zero]

/-- Byte by byte or bit by bit, the register ends the same. -/
theorem foldl_bitsLsbFirst (c : BitVec 16) (bs : List Byte) : (bitsLsbFirst bs).foldl crcBit c = crcFrom c bs := by
  induction bs generalizing c with
  | nil => rfl
  | cons b bs ih =>
    have hbits : bitsLsbFirst (b :: bs) = (List.range 8).map b.getLsbD ++ bitsLsbFirst bs := rfl
    rw [hbits, List.foldl_append, ← crcByte_eq_foldl, ih, crcFrom_cons]

/-! ## The residue -/

/-- While the bits shifted out are zero the polynomial is never combined in. -/
theorem crcShifts_eq_ushiftRight {n : Nat} {x : BitVec 16} (h : ∀ i < n, x.getLsbD i = false) :
    crcShifts n x = x >>> n := by
  induction n generalizing x with
  | zero => simp [crcShifts]
  | succ n ih =>
    have hshift : crcShift x = x >>> 1 := by rw [crcShift, h 0 (by omega)]; rfl
    have hbits : ∀ i < n, (x >>> 1).getLsbD i = false := fun i hi => by
      rw [BitVec.getLsbD_ushiftRight]
      exact h (1 + i) (by omega)
    rw [crcShifts_succ, hshift, ih hbits, ← BitVec.shiftRight_add, Nat.add_comm]

/-- The low byte of the register, fed to it, cancels itself: what stays is the high byte. -/
theorem crcByte_low (c : BitVec 16) : crcByte c (c.extractLsb' 0 8) = c >>> 8 := by
  have hlow : ∀ i < 8, (c ^^^ (c.extractLsb' 0 8).setWidth 16).getLsbD i = false := fun i hi => by
    have hwide : i < 16 := by omega
    simp [hi, hwide]
  rw [crcByte, crcShifts_eq_ushiftRight hlow, BitVec.ushiftRight_xor_distrib, setWidth_ushiftRight_byte, BitVec.xor_zero]

/-- A register that holds one byte, fed that byte, is zero. -/
theorem crcByte_high (c : BitVec 16) : crcByte (c >>> 8) (c.extractLsb' 8 8) = 0#16 := by
  have hbyte : (c.extractLsb' 8 8).setWidth 16 = c >>> 8 := by
    apply BitVec.eq_of_toNat_eq
    have hc := c.isLt
    simp only [BitVec.toNat_setWidth, BitVec.extractLsb'_toNat, BitVec.toNat_ushiftRight, Nat.shiftRight_eq_div_pow]
    omega
  rw [crcByte, hbyte, BitVec.xor_self, crcShifts_eq_ushiftRight (by simp), BitVec.zero_ushiftRight]

/-- A register fed its own two bytes, low byte first, is zero (42_crc R151, R152). -/
theorem crcFrom_crcPair (c : BitVec 16) : crcFrom c (crcPair c) = 0#16 := by
  rw [crcPair, crcFrom_cons, crcFrom_cons, crcFrom_nil, crcByte_low, crcByte_high]

/-- Settles O21: the message leaves its CRC in the register, and its two bytes then cancel it. -/
theorem bitSerialCrcAgreesAndResidueIsZero : Obligations.BitSerialCrcAgreesAndResidueIsZero := by
  refine ⟨foldl_bitsLsbFirst crcInit, rfl, fun bs => ?residue⟩
  case residue =>
    have happend : crc16 (bs ++ crcPair (crc16 bs)) = crcFrom (crc16 bs) (crcPair (crc16 bs)) :=
      crcFrom_append crcInit bs (crcPair (crc16 bs))
    exact happend.trans (crcFrom_crcPair (crc16 bs))

/-- Settles O22: four closed runs of the generator, reduced shift by shift. -/
theorem crcKnownAnswersHold : Obligations.CrcKnownAnswersHold := by
  simp [Obligations.CrcKnownAnswersHold, crc16, crcInit, crcByte, crcShifts, crcShift, crcPoly]

/-! ## `WRITE_CRC` -/

/-- The words `WRITE_CRC` appends after the words of its window (42_crc R152). -/
def crcWords (c : Config) (ws : List Word) : List Word := (crcPair (crc16 (ws.map untag))).map (tag c)

@[simp] theorem crcWords_length (c : Config) (ws : List Word) : (crcWords c ws).length = 2 := rfl

theorem exec_writeCrc (n : BitVec 16) (s : State) : exec (.writeCrc n) s = finish s (writeCrc n.toNat s) := rfl

theorem writeCrc_overrun {n : Nat} {s : State} (h : s.cursor.toNat < n ∨ s.cfg.capacity < s.cursor.toNat + 2) :
    writeCrc n s = .error (.fault .bufferOverrun) :=
  if_neg (by omega)

/-- Both bounds hold, so the window is read next and stops the operation (60_exceptions R305). -/
theorem writeCrc_unwritten {n : Nat} {s : State} (hn : n ≤ s.cursor.toNat) (hroom : s.cursor.toNat + 2 ≤ s.cfg.capacity)
    (hun : Unwritten s.mem (s.cursor.toNat - n) n) : writeCrc n s = .error (.fault .uninitialisedRead) := by
  rw [writeCrc, if_pos ⟨hn, hroom⟩]
  exact bind_eq_error.mpr (.inl (memRead_unwritten (by omega) hun))

theorem writeCrc_appends {s : State} {n : BitVec 16} {ws : List Word} (hn : n.toNat ≤ s.cursor.toNat)
    (hlen : ws.length = n.toNat) (hws : Holds s.mem (s.cursor.toNat - n.toNat) ws) (hroom : Room s 2) :
    Appends (exec (.writeCrc n) s) s (crcWords s.cfg ws) := by
  have hread : s.mem.readAll (s.cursor.toNat - n.toNat) n.toNat = some ws :=
    (Memory.readAll_eq_some _ _ _ _).mpr ⟨hlen, hlen ▸ hws⟩
  have hrun : writeCrc n.toNat s = .ok (s.placed (crcWords s.cfg ws)) :=
    writeCrc_eq_ok.mpr ⟨hn, hroom.fits, ws, hread, rfl⟩
  refine ⟨s.mem.writeAll s.cursor.toNat (crcWords s.cfg ws), stores_writeAll _ _ _, ?_⟩
  rw [exec_writeCrc, hrun, finish_ok, State.placed]

/-- Settles O19: the bounds, then the window, then the pair, each in its own lemma. -/
theorem writeCrcAppendsTheCrcOfItsWindow : Obligations.WriteCrcAppendsTheCrcOfItsWindow := by
  intro s n
  refine ⟨rfl, fun ws hn hlen hws hroom => writeCrc_appends hn hlen hws hroom, fun hout => ?overrun,
    fun hn hroom hun => ?unwritten⟩
  case overrun => rw [exec_writeCrc, writeCrc_overrun hout, finish_fault]
  case unwritten => rw [exec_writeCrc, writeCrc_unwritten hn hroom hun, finish_fault]

/-! ## `READ_CRC` -/

/-- `READ_CRC` is a two-byte reader whose value takes the bytes in reverse (42_crc R153). -/
theorem exec_readCrc (s : State) : exec .readCrc s = readTyped 2 (fun bs => unsignedBE bs.reverse) s := rfl

theorem joined_eq_fromBE (ws : List Word) : joined ws = fromBE (ws.map untag) := by
  rw [joined, fromBE, List.foldl_map]

theorem readsWords_readCrc (s : State) : ReadsWords .readCrc s 2 (fun ws => .unsigned (joined ws.reverse)) := by
  simp only [joined_eq_fromBE, List.map_reverse]
  exact readsWords_of_readTyped (exec_readCrc s)

/-- The pair `WRITE_CRC` appends, taken in reverse, is its CRC most significant byte first. -/
theorem joined_reverse_crcWords {c : Config} (h : c.dataTag &&& 0x01FE#16 = 0#16) (ws : List Word) :
    joined (crcWords c ws).reverse = (crc16 (ws.map untag)).toNat := by
  have hbytes (p : BitVec 16) : (crcPair p).reverse = bytesBE p 2 := rfl
  rw [joined_eq_fromBE, List.map_reverse, crcWords, map_untag_map_tag h, hbytes, fromBE_bytesBE, BitVec.setWidth_eq]

/-! ## Writing, then stepping back and reading -/

/-- `INC_INDEX` to an index of the range. -/
theorem exec_incIndex_to {s : State} {n : BitVec 16} {i : Index} (h : cursorPlus s n = i.toNat) :
    exec (.incIndex n) s = .next { s with cursor := i, out := .done } := by
  have hi := i.isLt
  rw [exec_incIndex_inside (by omega), h, BitVec.ofInt_natCast, BitVec.ofNat_toNat, BitVec.setWidth_eq]

/-- Words appended, stepped back over and read again: the reader answers their value. -/
theorem execAll_append_back_read {write read : Instr} {s : State} {ws : List Word} {n : BitVec 16}
    {value : List Word → Result} (hn : n.toInt = -ws.length) (hroom : Room s ws.length)
    (hwrite : Appends (exec write s) s ws) (hread : ∀ t : State, ReadsWords read t ws.length value) :
    ∃ t, execAll [write, .incIndex n, read] s = .next t ∧ t.out = .result (value ws) := by
  obtain ⟨m, hm, hwritten⟩ := hwrite
  have hlast := hroom.fits.2
  have hback : cursorPlus
      { s with mem := m, cursor := BitVec.ofNat 16 (s.cursor.toNat + ws.length), out := .done } n = s.cursor.toNat := by
    simp only [cursorPlus, BitVec.toNat_ofNat, hn]
    omega
  obtain ⟨hfetch, -, -⟩ := hread { s with mem := m, out := .done }
  have hanswer := hfetch ws rfl hroom hm.holds
  exact ⟨_, (execAll_cons hwritten).trans ((execAll_cons (exec_incIndex_to hback)).trans (execAll_cons hanswer)), rfl⟩

/-- Settles O20: the pair read back, its second word high, is the CRC whose low byte was written first. -/
theorem readCrcReturnsWhatWriteCrcWrote : Obligations.ReadCrcReturnsWhatWriteCrcWrote := by
  refine ⟨rfl, readsWords_readCrc, fun s n ws hlegal hn hlen hws hroom => ?_⟩
  have hrun := execAll_append_back_read (n := 0xFFFE#16) (by simp) hroom (writeCrc_appends hn hlen hws hroom)
    readsWords_readCrc
  rwa [joined_reverse_crcWords (Config.parametersLegal_tag hlegal)] at hrun

end Sys2Proof.Machine
end

section
/-! Control-word writers (43_control_words): the words of a duration in their two forms, the shape the two duration
writers share, and the six operations. -/

namespace Sys2Proof.Machine

/-! ## The words of a duration -/

theorem delayWord_us {T : BitVec 32} (h : T.toNat < 4096) : delayWord T = 0x4000#16 ||| BitVec.ofNat 16 T.toNat :=
  if_pos h

theorem delayWord_ms {T : BitVec 32} (h : 4096 ≤ T.toNat) :
    delayWord T = 0x5000#16 ||| BitVec.ofNat 16 (T.toNat / 1000 + 1) :=
  if_neg (Nat.not_lt.mpr h)

theorem waitWord_us {T : BitVec 32} (h : T.toNat < 4096) : waitWord T = 0x6000#16 ||| BitVec.ofNat 16 T.toNat :=
  if_pos h

theorem waitWord_ms {T : BitVec 32} (h : 4096 ≤ T.toNat) :
    waitWord T = 0x9000#16 ||| BitVec.ofNat 16 (T.toNat / 1000 + 1) :=
  if_neg (Nat.not_lt.mpr h)

/-! ## Writers of a duration -/

theorem durationFits_iff {T : BitVec 32} : durationFits T = true ↔ T.toNat ≤ 4094999 :=
  decide_eq_true_iff

/-- In range, an operation that emits a duration is a writer of its word. -/
theorem writes_of_emitDuration {i : Instr} {word : BitVec 32 → Word} {T : BitVec 32} {s : State}
    (hi : exec i s = finish s (emitDuration word T s)) (h : T.toNat ≤ 4094999) : Writes i s [word T] := by
  refine writes_of_emit ?_
  rw [hi, emitDuration, if_pos (durationFits_iff.mpr h)]

/-- Out of range it is turned away before the room at the cursor is looked at (43_control_words R166; 60_exceptions
R305). -/
theorem turnedAway_of_emitDuration {i : Instr} {word : BitVec 32 → Word} {T : BitVec 32} {s : State}
    (hi : exec i s = finish s (emitDuration word T s)) (h : 4094999 < T.toNat) :
    TurnedAway (exec i s) s .operandRange := by
  have hout : ¬ durationFits T = true := durationFits_iff.not.mpr (Nat.not_le.mpr h)
  show exec i s = .next (turnAway .operandRange s)
  rw [hi, emitDuration, if_neg hout, finish_refuse]

theorem exec_writeDelay (T : BitVec 32) (s : State) : exec (.writeDelay T) s = finish s (emitDuration delayWord T s) :=
  rfl

theorem exec_writeWaitrx (T : BitVec 32) (s : State) : exec (.writeWaitrx T) s = finish s (emitDuration waitWord T s) :=
  rfl

/-! ## The six operations -/

/-- Settles O23: each of the four emits the one word its configuration gives it. -/
theorem fixedLiteralWritersStoreTheLiteral : Obligations.FixedLiteralWritersStoreTheLiteral :=
  fun _ => ⟨writes_of_emit rfl, writes_of_emit rfl, writes_of_emit rfl, writes_of_emit rfl, rfl, rfl, rfl, rfl⟩

/-- Settles O24: in range the form of the word is the only difference, and out of range no word is made. -/
theorem durationWritersStoreTheirWord : Obligations.DurationWritersStoreTheirWord := by
  intro s T
  have hdelay := exec_writeDelay T s
  have hwait := exec_writeWaitrx T s
  refine ⟨rfl, rfl, fun hus => ?microseconds, fun hms hmax => ?milliseconds, fun hout => ?outOfRange⟩
  case microseconds =>
    have hmax : T.toNat ≤ 4094999 := by omega
    rw [← delayWord_us hus, ← waitWord_us hus]
    exact ⟨writes_of_emitDuration hdelay hmax, writes_of_emitDuration hwait hmax⟩
  case milliseconds =>
    rw [← delayWord_ms hms, ← waitWord_ms hms]
    exact ⟨writes_of_emitDuration hdelay hmax, writes_of_emitDuration hwait hmax⟩
  case outOfRange => exact ⟨turnedAway_of_emitDuration hdelay hout, turnedAway_of_emitDuration hwait hout⟩

end Sys2Proof.Machine
end

section
/-! Typed readers and the two predicates (44_readers): the number a reader's bytes join to and its two extensions, the
shape the signed and the unsigned readers have, and the eleven operations. -/

namespace Sys2Proof.Machine

/-! ## The two extensions -/

/-- The last byte is the least significant one (44_readers R181). -/
theorem fromBE_concat (bs : List Byte) (b : Byte) : fromBE (bs ++ [b]) = 256 * fromBE bs + b.toNat := by
  rw [fromBE, List.foldl_append, List.foldl_cons, List.foldl_nil, fromBE]

theorem fromBE_lt (bs : List Byte) : fromBE bs < 2 ^ (8 * bs.length) := by
  induction bs using List.reverseRecOn with
  | nil => exact Nat.one_pos
  | append_singleton bs b ih =>
    have hb := b.isLt
    rw [fromBE_concat, List.length_append, List.length_singleton, Nat.mul_add, Nat.pow_add]
    omega

/-- The sign extension of 00_scope R10 is the two's complement reading of the pattern. -/
theorem signedOf_eq_toInt {n p : Nat} (h : p < 2 ^ n) : signedOf n p = (BitVec.ofNat n p).toInt := by
  rw [signedOf, BitVec.toInt_eq_toNat_cond, BitVec.toNat_ofNat, Nat.mod_eq_of_lt h]
  cases n with
  | zero =>
    obtain rfl : p = 0 := Nat.lt_one_iff.mp h
    rfl
  | succ n =>
    have hhalf : p < 2 ^ n ↔ 2 * p < 2 ^ (n + 1) := by rw [Nat.pow_succ]; omega
    simp only [Nat.add_sub_cancel, hhalf, Nat.cast_pow, Nat.cast_ofNat]

theorem unsignedBE_map_untag (ws : List Word) : unsignedBE (ws.map untag) = .unsigned (joined ws) := by
  rw [unsignedBE, joined_eq_fromBE]

theorem signedBE_map_untag (ws : List Word) :
    signedBE (ws.map untag) = .signed (signedOf (8 * ws.length) (joined ws)) := by
  have hlt := fromBE_lt (ws.map untag)
  rw [signedBE, ← signedOf_eq_toInt hlt, List.length_map, joined_eq_fromBE]

/-! ## Readers by extension -/

/-- A reader of `n` words is known by its value on lists of `n` words. -/
theorem ReadsWords.congr {i : Instr} {s : State} {n : Nat} {value value' : List Word → Result}
    (h : ReadsWords i s n value) (hvalue : ∀ ws, ws.length = n → value ws = value' ws) : ReadsWords i s n value' := by
  obtain ⟨hread, hover, hun⟩ := h
  exact ⟨fun ws hlen hroom hws => hvalue ws hlen ▸ hread ws hlen hroom hws, hover, hun⟩

theorem readsWords_unsigned {i : Instr} {s : State} {n : Nat} (hi : exec i s = readTyped n unsignedBE s) :
    ReadsWords i s n (fun ws => .unsigned (joined ws)) :=
  (readsWords_of_readTyped hi).congr fun ws _ => unsignedBE_map_untag ws

/-- A signed reader extends from the `8 * n` bits of its own words, 24 for `READ_I24` (44_readers R185). -/
theorem readsWords_signed {i : Instr} {s : State} {n : Nat} (hi : exec i s = readTyped n signedBE s) :
    ReadsWords i s n (fun ws => .signed (signedOf (8 * n) (joined ws))) :=
  (readsWords_of_readTyped hi).congr fun ws hlen => hlen ▸ signedBE_map_untag ws

/-- Settles O16: each reader is `readTyped` at its width, with one of the two extensions. -/
theorem typedReadersReturnWhatTheWordsCarry : Obligations.TypedReadersReturnWhatTheWordsCarry :=
  ⟨fun _ =>
    ⟨readsWords_unsigned rfl, readsWords_signed rfl, readsWords_signed rfl, readsWords_signed rfl,
      readsWords_signed rfl, readsWords_unsigned rfl, readsWords_unsigned rfl, readsWords_unsigned rfl,
      readsWords_unsigned rfl⟩,
    rfl⟩

/-! ## The two predicates -/

theorem memRead_one {a : Nat} {s : State} {w : Word} (h : a < s.cfg.capacity) (hw : s.mem.read a = some w) :
    memRead a 1 s = .ok [w] := by
  refine memRead_eq_ok.mpr ⟨h, ?_⟩
  rw [Memory.readAll_succ, hw, Memory.readAll_zero]

/-- The comparison takes the word whole, tag bits included (44_readers R192). -/
theorem isRxEof_singleton (c : Config) (w : Word) : isRxEof c [w] = decide (w = c.rxEofWord) := by
  simp only [isRxEof, List.cons.injEq, and_true]

theorem exec_endOfFrame (s : State) : exec .endOfFrame s
    = answer s (do let ws ← memRead s.cursor.toNat 1 s; .ok (.bit (isRxEof s.cfg ws), s)) := rfl

/-- Settles O18: `END_OF_FRAME` is one bounded read and a comparison, with no `advance` after it; `END_OF_BUFFER` reads
no word. -/
theorem predicatesAnswerWithoutMoving : Obligations.PredicatesAnswerWithoutMoving := by
  refine ⟨rfl, rfl, fun s w hin hw => ?compared, fun s hover => ?overrun, fun s hin hun => ?unwritten, fun _ => rfl⟩
  case compared =>
    rw [exec_endOfFrame, memRead_one hin hw, ← isRxEof_singleton]
    rfl
  case overrun =>
    rw [exec_endOfFrame, memRead_overrun (Nat.lt_succ_of_le hover)]
    rfl
  case unwritten =>
    have hunwritten : Unwritten s.mem s.cursor.toNat 1 := ⟨0, Nat.one_pos, hun⟩
    rw [exec_endOfFrame, memRead_unwritten hin hunwritten]
    rfl

end Sys2Proof.Machine
end

section
/-! Frame composition (45_frame_factory): generic frames and placeholders as runs of words, the bytes of a typed value as
digits, the arguments of a table-driven frame against the elements of its entry, and the four operations. -/

namespace Sys2Proof.Machine

/-! ## Generic frames -/

/-- In its domain a generic frame emits the words of 30_encoding R90 and its tail (45_frame_factory R203, R204). -/
theorem genericFrame_eq {tail : Tail} {a f : Byte} {d : List Byte} {T : BitVec 32} {s : State}
    (hlegal : s.cfg.parametersLegal = true) (hd : d.length + 2 ≤ 65535) (hT : T.toNat ≤ 4094999) :
    genericFrame tail a f d T s = emit (frameImage s.cfg a f d (tailWord tail T)) s := by
  rw [genericFrame, if_neg (Nat.not_lt.mpr hd), if_pos (durationFits_iff.mpr hT),
    frame_eq (Config.parametersLegal_capacity hlegal), frameList_eq (Config.parametersLegal_tag hlegal)]

/-- An operation that composes a generic frame is a writer of the whole frame. -/
theorem writes_of_genericFrame {i : Instr} {tail : Tail} {a f : Byte} {d : List Byte} {T : BitVec 32} {s : State}
    (hi : exec i s = finish s (genericFrame tail a f d T s)) (hlegal : s.cfg.parametersLegal = true)
    (hd : d.length + 2 ≤ 65535) (hT : T.toNat ≤ 4094999) : Writes i s (frameImage s.cfg a f d (tailWord tail T)) :=
  writes_of_emit (hi.trans (congrArg (finish s) (genericFrame_eq hlegal hd hT)))

/-- Settles O25: the two operations are one generic frame, with the wait and with the delay as its tail. -/
theorem genericFramesAreWrittenWhole : Obligations.GenericFramesAreWrittenWhole := by
  intro s a f d T
  refine ⟨rfl, rfl, fun hlegal hd hT => ⟨?unicast, ?broadcast⟩⟩
  case unicast => exact writes_of_genericFrame (tail := .unicast) rfl hlegal hd hT
  case broadcast => exact writes_of_genericFrame (tail := .broadcast) rfl hlegal hd hT

/-! ## Placeholders -/

theorem exec_frameNop (n : BitVec 16) (s : State) :
    exec (.frameNop n) s = finish s (emit (List.replicate n.toNat s.cfg.nopWord) s) := rfl

/-- Settles O27: a placeholder emits its copies in one run of words. -/
theorem frameNopStoresCopiesOfNopWord : Obligations.FrameNopStoresCopiesOfNopWord :=
  fun s n => ⟨rfl, writes_of_emit (exec_frameNop n s)⟩

/-! ## The bytes of a typed value are its digits -/

/-- The digit of a number at `b` survives reducing the number modulo anything that has that digit. -/
theorem emod_mul_ediv_emod (z : Int) {b : Int} (hb : 0 < b) (c r : Int) : z % (b * (c * r)) / b % c = z / b % c := by
  have hz : z % (b * (c * r)) = z + b * (c * -(r * (z / (b * (c * r))))) := by rw [Int.emod_def]; ring
  rw [hz, Int.add_mul_ediv_left _ _ hb.ne', Int.add_mul_emod_self_left]

/-- Byte `k` of a pattern truncated to `w` bits is the integer's base-256 digit `k`, wherever the pattern has that byte. -/
theorem extractLsb'_ofInt {w k : Nat} (h : 8 * (k + 1) ≤ w) (z : Int) :
    (BitVec.ofInt w z).extractLsb' (8 * k) 8 = BitVec.ofInt 8 (z / 256 ^ k) := by
  obtain ⟨r, rfl⟩ := Nat.exists_eq_add_of_le h
  have hpow : (2 : Int) ^ (8 * (k + 1) + r) = 256 ^ k * (256 * 2 ^ r) := by
    rw [pow_add, pow_mul, pow_succ, mul_assoc]
    rfl
  have hdigit := emod_mul_ediv_emod z (b := 256 ^ k) (by positivity) 256 (2 ^ r)
  rw [← hpow] at hdigit
  apply BitVec.eq_of_toNat_eq
  apply Int.ofNat_inj.mp
  rw [BitVec.extractLsb'_toNat, BitVec.toNat_ofInt, BitVec.toNat_ofInt, Nat.shiftRight_eq_div_pow, pow_mul]
  push_cast
  rw [Int.toNat_of_nonneg (Int.emod_nonneg z (by positivity)), Int.toNat_of_nonneg (Int.emod_nonneg _ (by decide))]
  exact hdigit

theorem digits_succ (n : Nat) (z : Int) : digits (n + 1) z = BitVec.ofInt 8 (z / 256 ^ n) :: digits n z := by
  have hrest (k : Nat) : n - (k + 1) = n - 1 - k := by omega
  rw [digits, List.range_succ_eq_map, List.map_cons, List.map_map, Nat.add_sub_cancel, Nat.sub_zero]
  exact congrArg (_ :: ·) (List.map_congr_left fun k _ => by rw [Function.comp_apply, Nat.succ_eq_add_one, hrest])

/-- The `n` low bytes of a truncated integer are its `n` low digits: the width it was truncated to does not matter
(41_data_writers R131, 70_reset_and_hazards R354). -/
theorem bytesBE_ofInt {w n : Nat} (h : 8 * n ≤ w) (z : Int) : bytesBE (BitVec.ofInt w z) n = digits n z := by
  induction n with
  | zero => rfl
  | succ n ih => rw [bytesBE, extractLsb'_ofInt h, ih (by omega), digits_succ]

theorem typedBytes_eq_digits (t : FieldType) (z : Int) : typedBytes t z = digits (typeBytes t) z := by
  have hwidth : 8 * typeBytes t ≤ 64 := by cases t <;> decide
  exact bytesBE_ofInt hwidth z

/-- A typed writer whose operand has every byte of the type writes what a field of that type is written as. -/
theorem writes_typedBytes {i : Instr} {s : State} {t : FieldType} {w : Nat} {z : Int}
    (hi : exec i s = writeTyped (typeBytes t) (BitVec.ofInt w z) s) (hw : 8 * typeBytes t ≤ w) :
    Writes i s ((typedBytes t z).map (tag s.cfg)) := by
  rw [typedBytes_eq_digits, ← bytesBE_ofInt hw]
  exact writes_of_writeTyped hi

theorem writes_writerOf (s : State) (t : FieldType) (z : Int) :
    Writes (writerOf t z) s ((typedBytes t z).map (tag s.cfg)) := by
  cases t with
  | u8 | i8 => exact writes_typedBytes (w := 8) rfl (by decide)
  | i16 | u16 => exact writes_typedBytes (w := 16) rfl (by decide)
  | i24 | i32 | u32 | sgl => exact writes_typedBytes (w := 32) rfl (by decide)
  | dbl => exact writes_typedBytes (w := 64) rfl (by decide)

/-- A byte written with a one-byte type is the byte (46_roundrobin R233). -/
theorem typedBytes_toNat {t : FieldType} (ht : t.oneByte = true) (b : Byte) : typedBytes t b.toNat = [b] := by
  have hsize : typeBytes t = 1 := by
    cases t with
    | u8 | i8 => rfl
    | _ => cases ht
  rw [typedBytes_eq_digits, hsize, ← bytesBE_ofInt (w := 8) le_rfl, bytesBE_byte, BitVec.ofInt_natCast,
    BitVec.ofNat_toNat, BitVec.setWidth_eq]

/-! ## Arguments against the elements of an entry -/

/-- The types of the elements of some fields, in order: what `fieldTypes` lists of an entry. -/
def elementTypes (fs : List PayloadField) : List FieldType := fs.flatMap (fun f => List.replicate f.count f.type)

/-- Values written with as many types, one by one: what `argumentBytes` writes of an entry. -/
def elementBytes (ts : List FieldType) (zs : List Int) : List Byte := (ts.zip zs).flatMap (fun p => typedBytes p.1 p.2)

theorem fieldTypes_eq (e : CmdEntry) : fieldTypes e = elementTypes e.payload := rfl

theorem argumentBytes_eq (e : CmdEntry) (args : List Int) :
    argumentBytes e args = elementBytes (fieldTypes e) args := rfl

theorem elementTypes_cons (f : PayloadField) (fs : List PayloadField) :
    elementTypes (f :: fs) = List.replicate f.count f.type ++ elementTypes fs := rfl

theorem elementBytes_append {ts us : List FieldType} {zs ys : List Int} (h : ts.length = zs.length) :
    elementBytes (ts ++ us) (zs ++ ys) = elementBytes ts zs ++ elementBytes us ys := by
  rw [elementBytes, List.zip_append h, List.flatMap_append, elementBytes, elementBytes]

/-- The elements of one field are written alike. -/
theorem elementBytes_replicate (t : FieldType) (zs : List Int) :
    elementBytes (List.replicate zs.length t) zs = zs.flatMap (typedBytes t) := by
  induction zs with
  | nil => rfl
  | cons z zs ih => exact congrArg (typedBytes t z ++ ·) ih

/-- Taking the values field by field is writing them element by element, and it succeeds exactly when there is one value
for each element (45_frame_factory R208). -/
theorem bindArgs_eq (fs : List PayloadField) (args : List Int) :
    bindArgs fs args
      = if args.length = (elementTypes fs).length then some (elementBytes (elementTypes fs) args) else none := by
  induction fs generalizing args with
  | nil => cases args <;> rfl
  | cons f fs ih =>
    rw [bindArgs, ih, elementTypes_cons, List.length_append, List.length_replicate, List.length_drop]
    by_cases hcount : f.count ≤ args.length
    · have htake : (args.take f.count).length = f.count := List.length_take_of_le hcount
      have hbytes : elementBytes (List.replicate f.count f.type ++ elementTypes fs) args
          = (args.take f.count).flatMap (typedBytes f.type) ++ elementBytes (elementTypes fs) (args.drop f.count) := by
        rw [← elementBytes_replicate, htake, ← elementBytes_append (by simp [htake]), List.take_append_drop]
      have hlength : args.length - f.count = (elementTypes fs).length
          ↔ args.length = f.count + (elementTypes fs).length := by omega
      simp only [if_pos hcount, hbytes, hlength]
      split <;> rfl
    · rw [if_neg hcount, if_neg (by omega)]

theorem bindArgs_entry {e : CmdEntry} {args : List Int} (h : args.length = (fieldTypes e).length) :
    bindArgs e.payload args = some (argumentBytes e args) := by
  rw [bindArgs_eq, ← fieldTypes_eq, ← argumentBytes_eq, if_pos h]

theorem bindArgs_mismatch {e : CmdEntry} {args : List Int} (h : args.length ≠ (fieldTypes e).length) :
    bindArgs e.payload args = none := by
  rw [bindArgs_eq, ← fieldTypes_eq, if_neg h]

/-! ## Table-driven frames -/

theorem exec_frameCmd (k : CmdType) (a : Byte) (args : List Int) (s : State) :
    exec (.frameCmd k a args) s = finish s (frameCmd k a (fun fs => bindArgs fs args) s) := rfl

theorem frameParts_missing {c : Config} {k : CmdType} {bind : List PayloadField → Option (List Byte)}
    (h : c.entry k = none ∨ c.timeoutOf k = none) : frameParts c k bind = .error (.refuse .refused) := by
  rw [frameParts]
  rcases h with hentry | htimeout
  · rw [hentry]
  · rw [htimeout]
    cases c.entry k <;> rfl

theorem frameParts_unbound {c : Config} {k : CmdType} {bind : List PayloadField → Option (List Byte)} {e : CmdEntry}
    (he : c.entry k = some e) (hbind : bind e.payload = none) : frameParts c k bind = .error (.refuse .refused) := by
  rw [frameParts, he]
  cases c.timeoutOf k <;> simp only [hbind]

/-- The arguments are looked at before the time-out (60_exceptions R305). -/
theorem frameParts_tooLong {c : Config} {k : CmdType} {bind : List PayloadField → Option (List Byte)} {e : CmdEntry}
    {T : BitVec 32} {d : List Byte} (he : c.entry k = some e) (hT : c.timeoutOf k = some T)
    (hbind : bind e.payload = some d) (hlong : 4094999 < T.toNat) : frameParts c k bind = .error (.refuse .operandRange) := by
  have hout : ¬ durationFits T = true := durationFits_iff.not.mpr (Nat.not_le.mpr hlong)
  simp only [frameParts, he, hT, hbind, if_neg hout]

/-- What the tables turn away, the operation turns away. -/
theorem turnedAway_of_frameParts {k : CmdType} {a : Byte} {args : List Int} {s : State} {ev : PortEvent}
    (h : frameParts s.cfg k (fun fs => bindArgs fs args) = .error (.refuse ev)) :
    TurnedAway (exec (.frameCmd k a args) s) s ev := by
  show exec (.frameCmd k a args) s = .next (turnAway ev s)
  rw [exec_frameCmd, frameCmd_refused h, finish_refuse]

/-- Settles O29: each clause is one way that consulting the tables fails. -/
theorem tableFrameOutsideItsDomainIsTurnedAway : Obligations.TableFrameOutsideItsDomainIsTurnedAway := by
  intro s k a args
  refine ⟨fun hmissing => ?missing, fun e T he hT => ⟨fun hargs => ?mismatch, fun hargs hlong => ?tooLong⟩⟩
  case missing => exact turnedAway_of_frameParts (frameParts_missing hmissing)
  case mismatch => exact turnedAway_of_frameParts (frameParts_unbound he (bindArgs_mismatch hargs))
  case tooLong => exact turnedAway_of_frameParts (frameParts_tooLong he hT (bindArgs_entry hargs) hlong)

/-- With its tables in order a table-driven frame is a writer of the frame of its entry (45_frame_factory R208). -/
theorem writes_frameCmd {s : State} {k : CmdType} {a : Byte} {args : List Int} {e : CmdEntry} {T : BitVec 32}
    (hlegal : s.cfg.parametersLegal = true) (he : s.cfg.entry k = some e) (hT : s.cfg.timeoutOf k = some T)
    (hmax : T.toNat ≤ 4094999) (hargs : args.length = (fieldTypes e).length) :
    Writes (.frameCmd k a args) s
      (frameImage s.cfg a e.function (argumentBytes e args) (tailWord e.tail T)) := by
  have hparts := frameParts_eq_ok (bind := fun fs => bindArgs fs args).mpr
    ⟨e, T, _, he, hT, bindArgs_entry hargs, hmax, rfl⟩
  refine writes_of_emit ?_
  rw [exec_frameCmd, frameCmd_eq (Config.parametersLegal_capacity hlegal) hparts,
    frameList_eq (Config.parametersLegal_tag hlegal)]

/-! ## What a legal command table holds -/

/-- The three commands with a delay for a tail (30_encoding R98). -/
theorem tailKind_eq_broadcast {k : CmdType} :
    tailKind k = some .broadcast
      ↔ k = .broadcastStepMotor ∨ k = .broadcastForceDemand ∨ k = .broadcastFreezeSensor := by
  cases k <;> decide

theorem carriesCounter_of_payloadLegal {k : CmdType} {fs : List PayloadField} (hk : tailKind k = some .broadcast)
    (h : payloadLegal k fs = true) : carriesCounter fs = true := by
  rcases tailKind_eq_broadcast.mp hk with rfl | rfl | rfl
  · rw [payloadLegal, Bool.and_eq_true] at h
    exact h.1
  · simp only [payloadLegal, Bool.and_eq_true, and_assoc] at h
    exact h.1
  · exact h

theorem PayloadField.isCounter_iff {f : PayloadField} : f.isCounter = true ↔ f.name = .counter := decide_eq_true_iff

/-- An element counted once splits its list into two parts that hold no other. -/
theorem exists_split_of_countP_eq_one {α : Type} {p : α → Bool} {l : List α} (h : l.countP p = 1) :
    ∃ pre post x, l = pre ++ x :: post ∧ p x = true ∧ ∀ y ∈ pre ++ post, ¬ p y = true := by
  obtain ⟨x, hx, hpx⟩ := List.countP_pos_iff.mp (h ▸ Nat.one_pos)
  obtain ⟨pre, post, rfl⟩ := List.append_of_mem hx
  refine ⟨pre, post, x, rfl, hpx, List.countP_eq_zero.mp ?_⟩
  rw [List.countP_append, List.countP_cons_of_pos hpx] at h
  rw [List.countP_append]
  omega

/-- A payload that carries the counter has one counter field, and that one byte wide (46_roundrobin R233). -/
theorem exists_counter_of_carriesCounter {fs : List PayloadField} (h : carriesCounter fs = true) :
    ∃ pre post f, fs = pre ++ f :: post ∧ f.name = .counter ∧ f.count = 1 ∧ f.type.oneByte = true
      ∧ ∀ g ∈ pre ++ post, g.name ≠ .counter := by
  rw [carriesCounter, Bool.and_eq_true, decide_eq_true_eq, List.all_eq_true] at h
  obtain ⟨honce, hbyte⟩ := h
  obtain ⟨pre, post, f, rfl, hf, hothers⟩ := exists_split_of_countP_eq_one honce
  have hwide := hbyte f (by simp)
  rw [hf, Bool.not_true, Bool.false_or, Bool.and_eq_true, decide_eq_true_eq] at hwide
  obtain ⟨hcount, htype⟩ := hwide
  exact ⟨pre, post, f, rfl, PayloadField.isCounter_iff.mp hf, hcount, htype,
    fun g hg => PayloadField.isCounter_iff.not.mp (hothers g hg)⟩

/-- Settles O28: the bytes of a value are its digits at any width that has them, the frame is the one its tables give,
and the last clause is read off the checks of a legal table. -/
theorem tableFrameIsWrittenFromItsEntry : Obligations.TableFrameIsWrittenFromItsEntry := by
  refine ⟨fun z => ?bytes, writes_writerOf, fun s k a args e T => ⟨rfl, fun hl he hT hmax hargs => ⟨?plen, ?frame⟩,
    fun hlegal he => ?entry⟩⟩
  case bytes => simp only [typedBytes_eq_digits, typeBytes, and_self]
  case plen => exact bindArgs_length (bindArgs_entry hargs)
  case frame =>
    have hwrites := writes_frameCmd (a := a) hl he hT hmax hargs
    cases htail : e.tail <;> rwa [htail] at hwrites
  case entry =>
    obtain ⟨htail, hpayload⟩ := Config.legal_entry hlegal he
    have hkind : e.tail = .broadcast ↔ tailKind k = some .broadcast := by rw [htail, Option.some.injEq]
    refine ⟨?notNop, hkind.trans tailKind_eq_broadcast, fun hbroadcast => ?counter⟩
    case notNop =>
      rintro rfl
      cases htail
    case counter =>
      obtain ⟨pre, post, f, hsplit, hname, hcount, htype, hothers⟩ :=
        exists_counter_of_carriesCounter (carriesCounter_of_payloadLegal (hkind.mp hbroadcast) hpayload)
      exact ⟨pre, post, f, hsplit, hname, hcount, typedBytes_toNat htype, hothers⟩

/-! ## A placeholder in the place of a frame -/

/-- A table-driven frame that completes has placed as many words as its entry gives it, under every configuration. -/
theorem frameCmd_placed_frameWords {k : CmdType} {a : Byte} {args : List Int} {s t : State}
    (h : frameCmd k a (fun fs => bindArgs fs args) s = .ok t) :
    ∃ ws : List Word, ws.length = frameWords s.cfg k ∧ Fits s ws.length ∧ t = s.placed ws := by
  obtain ⟨p, hp, h⟩ := bind_eq_ok.mp h
  obtain ⟨e, T, d, he, -, hd, -, rfl⟩ := frameParts_eq_ok.mp hp
  obtain ⟨hfit, rfl⟩ := frame_eq_ok.mp h
  rw [← frameList_length s.cfg a e.function d (tailWord e.tail T)] at hfit
  exact ⟨_, by rw [frameWords_eq he, frameList_length, bindArgs_length hd], hfit, rfl⟩

/-- Two runs of as many words, placed at the same cursor, differ nowhere outside those words. -/
theorem placed_read_outside {s : State} {ws vs : List Word} (hlen : ws.length = vs.length) {x : Nat}
    (hx : x < s.cursor.toNat ∨ s.cursor.toNat + vs.length ≤ x) :
    (s.placed ws).mem.read x = (s.placed vs).mem.read x := by
  have hout : ¬ (s.cursor.toNat ≤ x ∧ x < s.cursor.toNat + vs.length) := by omega
  simp only [State.placed_mem, Memory.read_writeAll, hlen, if_neg hout]

/-- Settles O30: a frame that completes is a run of `frameWords` words, and a run of as many copies fits where it fits. -/
theorem placeholderHasTheLengthOfItsFrame : Obligations.PlaceholderHasTheLengthOfItsFrame := by
  intro s t k a args h hdone
  rcases finish_next.mp h with ⟨u, hu, rfl⟩ | ⟨ev, -, rfl⟩
  · obtain ⟨ws, hlen, hfit, rfl⟩ := frameCmd_placed_frameWords hu
    have hn : (BitVec.ofNat 16 (frameWords s.cfg k)).toNat = ws.length := by
      have hlast := hfit.2
      rw [← hlen, BitVec.toNat_ofNat]
      omega
    have hcopies : (List.replicate ws.length s.cfg.nopWord).length = ws.length := List.length_replicate
    have hemit := emit_eq_ok.mpr ⟨hcopies.symm ▸ hfit, rfl⟩
    refine ⟨{ s.placed (List.replicate ws.length s.cfg.nopWord) with out := .done }, ?run, rfl, ?cursor,
      fun x hx => placed_read_outside hcopies (hlen ▸ hx)⟩
    case run => rw [exec_frameNop, hn, hemit, finish_ok]
    case cursor => simp only [State.placed_cursor, hcopies]
  · cases hdone

end Sys2Proof.Machine
end

section
/-! Counters (46_roundrobin): the three pure operations, and the fairness of the round robin over consecutive `UPDATE`s: one
`UPDATE` moves a subnet's cursor by the increment and records the device it names, and `count` increments meet every position
once. -/

namespace Sys2Proof.Machine

/-! ## The increment of the round robin -/

theorem rrInc_of_pos (index : Nat) {count : Nat} (h : 0 < count) : rrInc index count = .ok ((index + 1) % count) :=
  rrInc_eq_ok.mpr ⟨h, rfl⟩

theorem rrInc_zero (index : Nat) : rrInc index 0 = .error (.fault .zeroCount) := rfl

theorem exec_rrInc (index count : Nat) (s : State) :
    exec (.rrInc index count) s = answer s (rrInc index count >>= fun r => .ok (.unsigned r, s)) := rfl

/-- Settles O31: a positive count has a next index, a count of zero has none. -/
theorem roundRobinIncrement : Obligations.RoundRobinIncrement := by
  intro s index count
  refine ⟨rfl, fun hpos => ?_, ?_⟩
  · rw [exec_rrInc, rrInc_of_pos index hpos]
    rfl
  · rintro rfl
    rw [exec_rrInc, rrInc_zero]
    rfl

/-- Increments taken together: one remainder, from any index. -/
theorem rrNext_iterate (count index k : Nat) :
    (fun x => rrNext x count)^[k + 1] index = (index + 1 + k) % count := by
  induction k generalizing index with
  | zero => rfl
  | succ k ih =>
    rw [Function.iterate_succ_apply, ih, rrNext, Nat.add_assoc, Nat.mod_add_mod]
    congr 1
    omega

/-- `count` increments meet every index below `count` once, from any start (46_roundrobin R230): they are the remainders of
`count` consecutive numbers. -/
theorem rrNext_iterates_perm (count start : Nat) :
    ((List.range count).map (fun k => (fun x => rrNext x count)^[k + 1] start)).Perm (List.range count) := by
  have hremainders : (List.range count).map (fun k => (fun x => rrNext x count)^[k + 1] start)
      = (List.range' (start + 1) count).map (· % count) := by
    simp only [rrNext_iterate, List.range'_eq_map_range, List.map_map, Function.comp_def]
  have hIco : Multiset.Ico (start + 1) (start + 1 + count) = ↑(List.range' (start + 1) count) := by
    rw [Multiset.Ico, Nat.Ico_eq_range', Nat.add_sub_cancel_left]
  have hmod := Nat.multiset_Ico_map_mod (start + 1) count
  rw [hIco, Multiset.map_coe] at hmod
  rw [hremainders]
  exact Multiset.coe_eq_coe.mp hmod

/-! ## The broadcast counter and the countdown -/

theorem exec_bcastInc (current : Byte) (s : State) :
    exec (.bcastInc current) s = .next { s with out := .result (.unsigned (bcastNext s.cfg current).toNat) } := rfl

/-- Settles O32: a legal modulus is at most 256, so the byte holds the remainder. -/
theorem broadcastCounterIncrement : Obligations.BroadcastCounterIncrement := by
  intro s current
  refine ⟨rfl, fun hlegal => ?_⟩
  obtain ⟨hlow, hhigh⟩ := Config.parametersLegal_bcastMod hlegal
  rw [exec_bcastInc, bcastNext_toNat current (by omega) hhigh]

theorem exec_lvdtStep {c : Byte} (h : c.toNat ≤ 4) (s : State) :
    exec (.lvdtStep c) s = .next { s with out := .result (.unsigned (lvdtNext c.toNat)) } :=
  congrArg (answer s) (if_pos h)

/-- Settles O33: inside its domain the operation answers the countdown's next value. -/
theorem lvdtStepCountsDown : Obligations.LvdtStepCountsDown :=
  fun s _ => ⟨rfl, fun h => exec_lvdtStep h s⟩

/-- Settles O35: the cycle 4, 3, 2, 1, 0 is met whole from each of its five values. -/
theorem lvdtCountdownHasPeriodFive : Obligations.LvdtCountdownHasPeriodFive := by
  intro c hc
  interval_cases c <;> exact ⟨rfl, by decide⟩

/-! ## What one `UPDATE` does to a subnet's registers -/

theorem scheduled_sub {k : CmdType} {a : Byte} {env : FieldArgs} {s t : State} (h : scheduled k a env s = .ok t) :
    t.sub = s.sub := by
  obtain ⟨ws, -, rfl⟩ := frameCmd_placed h
  rfl

theorem updateForce_sub {T : Topology} {inp : Inputs} {i : Subnet} {s t : State} (h : updateForce T inp i s = .ok t) :
    t.sub = s.sub := by
  unfold updateForce at h
  split at h
  · exact (scheduled_sub h :)
  · cases h
    rfl

theorem hpFrame_sub {P : Profile} {inp : Inputs} {s t : State} (h : hpFrame P inp s = .ok t) : t.sub = s.sub := by
  unfold hpFrame at h
  split at h
  · exact scheduled_sub h
  · cases h
    rfl

theorem updateStep_sub {P : Profile} {inp : Inputs} {i : Subnet} {s t : State} (h : updateStep P inp i s = .ok t) :
    t.sub = s.sub := by
  unfold updateStep at h
  split at h
  · exact (hpFrame_sub h :)
  · cases h
    rfl

theorem lvdtSlot_sub {d : ILCMap} {s t : State} (h : lvdtSlot d s = .ok t) : t.sub = s.sub := by
  unfold lvdtSlot at h
  split at h
  · obtain ⟨u, hu, h⟩ := bind_eq_ok.mp h
    cases h
    exact (scheduled_sub hu :)
  · split at h
    · obtain ⟨u, hu, h⟩ := bind_eq_ok.mp h
      obtain ⟨-, rfl⟩ := emit_eq_ok.mp hu
      cases h
      rfl
    · cases h

theorem updateLvdt_sub {i : Subnet} {s t : State} (h : updateLvdt i s = .ok t) : t.sub = s.sub := by
  unfold updateLvdt at h
  split at h
  · rename_i off _
    exact runAll_keeps (fun u => u.sub = s.sub) (fun _ _ _ hu hv => (lvdtSlot_sub hv).trans hu) _ (seek off s) t rfl h
  · cases h
    rfl

theorem pollFrame_sub {i : Subnet} {d : ILCMap} {s t : State} (h : pollFrame i d s = .ok t) :
    t.sub = (s.modSub i (fun r => { r with pollData := some d.dataIndex })).sub := by
  obtain ⟨u, hu, h⟩ := bind_eq_ok.mp h
  obtain ⟨ws, -, rfl⟩ := frameCmd_placed hu
  cases h
  rfl

/-- The registers of a subnet once the round-robin frame has been rewritten: the cursor one further among `count` enabled
force actuators, and `d` recorded (47_buslist R274). -/
def SubnetRegs.polling (count : Nat) (d : ILCMap) (r : SubnetRegs) : SubnetRegs :=
  { r with rr := BitVec.ofNat 8 (rrNext r.rr.toNat count), pollData := some d.dataIndex }

/-- What the round-robin rewrite of a subnet can do to the registers: nothing where no frame stands, else the cursor moves
and the device it then names is recorded. -/
theorem updatePoll_sub {T : Topology} {i : Subnet} {s t : State} (h : updatePoll T i s = .ok t) :
    (s.sub[i].pollOffset = none ∧ t.sub = s.sub)
      ∨ ∃ d, 0 < (s.enabled T .fa i).length
        ∧ (s.enabled T .fa i)[(s.sub[i].polling (s.enabled T .fa i).length d).rr.toNat]? = some d
        ∧ t.sub = (s.modSub i (SubnetRegs.polling (s.enabled T .fa i).length d)).sub := by
  unfold updatePoll at h
  split at h
  · rename_i hnone
    cases h
    exact .inl ⟨hnone, rfl⟩
  · obtain ⟨next, hnext, h⟩ := bind_eq_ok.mp h
    obtain ⟨hpos, rfl⟩ := rrInc_eq_ok.mp hnext
    dsimp only at h
    split at h
    · rename_i d hd
      refine .inr ⟨d, hpos, ?_, ?_⟩
      · rw [State.modSub_sub_self] at hd
        exact hd
      · rw [pollFrame_sub h]
        simp [SubnetRegs.polling, rrNext]
    · cases h

/-- The round robin has gone one further among `ds`: the cursor, and the device recorded. -/
structure Polled (ds : List ILCMap) (r r' : SubnetRegs) : Prop where
  offset : r'.pollOffset = r.pollOffset
  cursor : r'.rr.toNat = rrNext r.rr.toNat ds.length
  target : r'.pollData = ds[rrNext r.rr.toNat ds.length]?.map ILCMap.dataIndex

/-- Among at most 255 devices the cursor holds the next index (10_state R26). -/
theorem SubnetRegs.polling_rr {count : Nat} (hpos : 0 < count) (hle : count ≤ 255) (d : ILCMap) (r : SubnetRegs) :
    (r.polling count d).rr.toNat = rrNext r.rr.toNat count := by
  have hlt : rrNext r.rr.toNat count < count := rrNext_lt hpos
  simp only [SubnetRegs.polling, BitVec.toNat_ofNat]
  omega

/-- What a subnet's round robin reads and writes: its enabled force actuators, and its registers. -/
def State.roundRobin (T : Topology) (i : Subnet) (s : State) : List ILCMap × SubnetRegs := (s.enabled T .fa i, s.sub[i])

theorem State.enabled_congr {s t : State} (h : t.disabled = s.disabled) (T : Topology) (k : DeviceClass) (i : Subnet) :
    t.enabled T k i = s.enabled T k i := by
  simp only [State.enabled, State.isDisabled, h]

theorem updatePoll_polled {T : Topology} {i : Subnet} {s t : State} (hfa : T[i].fa.length ≤ 255)
    (hoff : s.sub[i].pollOffset.isSome = true) (h : updatePoll T i s = .ok t) :
    Polled (s.enabled T .fa i) s.sub[i] t.sub[i] := by
  rcases updatePoll_sub h with ⟨hnone, -⟩ | ⟨d, hpos, hd, hsub⟩
  · rw [hnone] at hoff
    cases hoff
  · have hrr := s.sub[i].polling_rr hpos ((enabled_length_le s T .fa i).trans hfa) d
    have hregs : t.sub[i] = s.sub[i].polling (s.enabled T .fa i).length d := by
      rw [hsub]
      exact s.modSub_sub_self i _
    rw [hregs]
    refine ⟨rfl, hrr, ?_⟩
    rw [← hrr, hd]
    rfl

/-- Of the four rewrites of a subnet only the one of the round-robin frame writes registers. -/
theorem updateSubnet_polls {T : Topology} {P : Profile} {inp : Inputs} {i : Subnet} {s t : State}
    (h : updateSubnet T P inp i s = .ok t) :
    ∃ u v, u.sub = s.sub ∧ u.disabled = s.disabled ∧ updatePoll T i u = .ok v ∧ t.sub = v.sub := by
  obtain ⟨u, hforce, h⟩ := bind_eq_ok.mp h
  obtain ⟨v, hpoll, h⟩ := bind_eq_ok.mp h
  obtain ⟨w, hstep, hlvdt⟩ := bind_eq_ok.mp h
  exact ⟨u, v, updateForce_sub hforce, (updateForce_moves hforce).kept.disabled, hpoll,
    (updateLvdt_sub hlvdt).trans (updateStep_sub hstep)⟩

theorem updateSubnet_polled {T : Topology} {P : Profile} {inp : Inputs} {i : Subnet} {s t : State}
    (hfa : T[i].fa.length ≤ 255) (hoff : s.sub[i].pollOffset.isSome = true) (h : updateSubnet T P inp i s = .ok t) :
    Polled (s.enabled T .fa i) s.sub[i] t.sub[i] := by
  obtain ⟨u, v, hsub, hdis, hpoll, ht⟩ := updateSubnet_polls h
  rw [ht, ← hsub, ← State.enabled_congr hdis]
  exact updatePoll_polled hfa (hsub ▸ hoff) hpoll

/-- The rewrites of a subnet leave the round robin of every other as it is. -/
theorem updateSubnet_roundRobin_of_ne {T : Topology} {P : Profile} {inp : Inputs} {i j : Subnet} {s t : State} (hj : j ≠ i)
    (h : updateSubnet T P inp j s = .ok t) : t.roundRobin T i = s.roundRobin T i := by
  obtain ⟨u, v, hsub, -, hpoll, ht⟩ := updateSubnet_polls h
  have hregs : v.sub[i] = u.sub[i] := by
    rcases updatePoll_sub hpoll with ⟨-, hv⟩ | ⟨d, -, -, hv⟩ <;> rw [hv]
    exact State.modSub_sub_of_ne u _ hj.symm
  rw [State.roundRobin, State.roundRobin, State.enabled_congr (updateSubnet_moves h).kept.disabled, ht, hregs, hsub]

/-! ## One entry's share of a sequence -/

section
variable {α β : Type} {f : α → State → Run} {view : State → β} {a : α}

/-- What every other entry's operation leaves as it is, a sequence without the entry does too. -/
theorem runAll_of_notMem (hother : ∀ x s t, x ≠ a → f x s = .ok t → view t = view s) {xs : List α} (ha : a ∉ xs)
    {s t : State} (h : runAll f xs s = .ok t) : view t = view s := by
  induction xs generalizing s with
  | nil =>
    cases h
    rfl
  | cons x xs ih =>
    obtain ⟨hx, hxs⟩ := List.ne_and_not_mem_of_not_mem_cons ha
    obtain ⟨u, hu, h⟩ := bind_eq_ok.mp h
    exact (ih hxs h).trans (hother x s u hx.symm hu)

/-- What the operation of one entry does to a part of the state that no other entry's touches, the whole sequence does. -/
theorem runAll_of_mem {R : β → β → Prop} (hother : ∀ x s t, x ≠ a → f x s = .ok t → view t = view s)
    (hself : ∀ s t, f a s = .ok t → R (view s) (view t)) {xs : List α} (hnodup : xs.Nodup) (ha : a ∈ xs) {s t : State}
    (h : runAll f xs s = .ok t) : R (view s) (view t) := by
  induction xs generalizing s with
  | nil => cases ha
  | cons x xs ih =>
    obtain ⟨hx, hxs⟩ := List.nodup_cons.mp hnodup
    obtain ⟨u, hu, h⟩ := bind_eq_ok.mp h
    by_cases hxa : x = a
    · subst hxa
      rw [runAll_of_notMem hother hx h]
      exact hself s u hu
    · rw [← hother x s u hxa hu]
      exact ih hxs ((List.mem_cons.mp ha).resolve_left (Ne.symm hxa)) h

end

/-! ## One `UPDATE`, and a chain of them -/

theorem mem_subnets (i : Subnet) : i ∈ subnets := by
  revert i
  decide

theorem updateSchedule_runs {T : Topology} {inp : Inputs} {s t : State} (hT : s.topology = some T)
    (h : updateSchedule inp s = .ok t) :
    ∃ u, runAll (updateSubnet T (s.cfg.profiles.profile s.variant) inp) subnets (updateInit s) = .ok u
      ∧ t = updateFinish u := by
  unfold updateSchedule at h
  split at h
  · rename_i T' _ hT'
    obtain rfl : T' = T := Option.some.inj (hT'.symm.trans hT)
    split at h
    · split at h
      · cases h
      · obtain ⟨u, hu, h⟩ := bind_eq_ok.mp h
        cases h
        exact ⟨u, hu, rfl⟩
    · cases h
  · cases h

/-- A completed `UPDATE` moves the round robin of every polled subnet by one (47_buslist R274). -/
theorem update_polled {T : Topology} {i : Subnet} {inp : Inputs} {s t : State} (hT : s.topology = some T)
    (hfa : T[i].fa.length ≤ 255) (hoff : s.sub[i].pollOffset.isSome = true)
    (h : exec (.update inp.primary inp.secondary inp.slew inp.steps) s = .next t) (hdone : t.out = .done) :
    Polled (s.enabled T .fa i) s.sub[i] t.sub[i] := by
  rcases finish_next.mp h with ⟨v, hv, rfl⟩ | ⟨e, -, rfl⟩
  · obtain ⟨u, hu, rfl⟩ := updateSchedule_runs hT hv
    have hmoved := runAll_of_mem (view := State.roundRobin T i)
      (R := fun p q => p.2.pollOffset.isSome = true → Polled p.1 p.2 q.2)
      (fun _ _ _ hj => updateSubnet_roundRobin_of_ne hj) (fun _ _ hrun hpoll => updateSubnet_polled hfa hpoll hrun)
      (by decide) (mem_subnets i) hu
    exact (hmoved hoff :)
  · cases hdone

/-- Along completed `UPDATE`s the `Disabled` bits stay, and the targets recorded are those the increment runs through
(46_roundrobin R236). -/
theorem Cycles.targets {T : Topology} {i : Subnet} (hfa : T[i].fa.length ≤ 255) {ts : List State} {s : State}
    (hT : s.topology = some T) (hoff : s.sub[i].pollOffset.isSome = true) (h : Cycles s ts) :
    (∀ t ∈ ts, t.disabled = s.disabled)
      ∧ ts.map (fun t => t.sub[i].pollData)
        = (List.range ts.length).map (fun k =>
            (s.enabled T .fa i)[(fun x => rrNext x (s.enabled T .fa i).length)^[k + 1] s.sub[i].rr.toNat]?.map
              ILCMap.dataIndex) := by
  induction ts generalizing s with
  | nil => exact ⟨List.forall_mem_nil _, rfl⟩
  | cons t ts ih =>
    obtain ⟨⟨inp, hexec, hdone⟩, hrest⟩ := h
    have heffect := exec_effect hexec
    have hdis : t.disabled = s.disabled := heffect.disabled_eq nofun nofun
    obtain ⟨hoffset, hcursor, htarget⟩ := update_polled hT hfa hoff hexec hdone
    obtain ⟨hdisabled, htargets⟩ := ih ((heffect.topology_cfgError_eq nofun).1.trans hT) (hoffset ▸ hoff) hrest
    refine ⟨List.forall_mem_cons.mpr ⟨hdis, fun u hu => (hdisabled u hu).trans hdis⟩, ?_⟩
    rw [State.enabled_congr hdis, hcursor] at htargets
    rw [List.map_cons, htargets, htarget, List.length_cons, List.range_succ_eq_map, List.map_cons, List.map_map]
    rfl

/-- Settles O34: the cursors of the chain are the iterates of the increment, which permute the positions of the enabled force
actuators. -/
theorem roundRobinIsFair : Obligations.RoundRobinIsFair := by
  refine ⟨fun count start _ => rrNext_iterates_perm count start, fun s T i ts hT hfa hoff hcycles hlen => ?_⟩
  obtain ⟨hdisabled, htargets⟩ := hcycles.targets hfa hT hoff
  refine ⟨hdisabled, ?_⟩
  set ds := s.enabled T .fa i with hds
  have hall : (List.range ds.length).map (fun j => ds[j]?.map ILCMap.dataIndex)
      = ds.map (fun d => some d.dataIndex) := by
    refine List.ext_getElem (by simp) fun j hj _ => ?_
    have hjd : j < ds.length := by simpa using hj
    simp [List.getElem?_eq_getElem hjd]
  have hperm := (rrNext_iterates_perm ds.length s.sub[i].rr.toNat).map (fun j => ds[j]?.map ILCMap.dataIndex)
  rw [List.map_map, hall] at hperm
  rw [htargets, hlen]
  exact hperm

end Sys2Proof.Machine
end

section
/-! What `BUILD` and `UPDATE` check before their first word (60_exceptions R302, R307; log 13): when the tables and the arguments of
a scheduled frame are in order, which commands the frames are of, and what is turned away. -/

namespace Sys2Proof.Machine

/-! ## Fields filled by name -/

theorem slice_isSome {xs : List Int} {first count : Nat} (h : first + count ≤ xs.length) :
    (slice xs first count).isSome = true := by
  rw [slice, if_pos h]
  rfl

/-- The arguments of a call fill every field that its command's entry may have. -/
def Fillable (c : Config) (k : Call) : Prop := ∀ f : PayloadField, fieldOk c k.1 f = true → (fieldValues k.2 f).isSome = true

theorem bindNamed_isSome {env : FieldArgs} {fs : List PayloadField}
    (h : ∀ f ∈ fs, (fieldValues env f).isSome = true) : (bindNamed env fs).isSome = true := by
  induction fs with
  | nil => rfl
  | cons f fs ih =>
    obtain ⟨zs, hzs⟩ := Option.isSome_iff_exists.mp (h f List.mem_cons_self)
    obtain ⟨rest, hrest⟩ := Option.isSome_iff_exists.mp (ih fun g hg => h g (List.mem_cons_of_mem f hg))
    rw [bindNamed, hzs, hrest]
    rfl

/-- The three arrays have as many slots as 00_scope R6 gives them. -/
structure ForceArrays.Sized (arr : ForceArrays) : Prop where
  saaPrimary : arr.saaPrimary.length = 16
  daaPrimary : arr.daaPrimary.length = 32
  daaSecondary : arr.daaSecondary.length = 32

theorem ForceArrays.sized_zero : ForceArrays.zero.Sized :=
  ⟨List.length_replicate, List.length_replicate, List.length_replicate⟩

theorem gatherOne_sized {n : Nat} {i : Subnet} {inp : Inputs} {arr : ForceArrays} (h : arr.Sized) (d : ILCMap) :
    (gatherOne n i inp arr d).Sized := by
  unfold gatherOne
  dsimp only
  split
  · exact ⟨List.length_set.trans h.saaPrimary, h.daaPrimary, h.daaSecondary⟩
  · exact ⟨h.saaPrimary, List.length_set.trans h.daaPrimary, List.length_set.trans h.daaSecondary⟩

theorem gather_sized (n : Nat) (i : Subnet) (inp : Inputs) (fas : List ILCMap) : (gather n i inp fas).Sized :=
  List.foldlRecOn fas _ (motive := ForceArrays.Sized) ForceArrays.sized_zero fun _ h d _ => gatherOne_sized h d

theorem fillable_force (c : Config) (n : Nat) (i : Subnet) (b : BitVec 8) (inp : Inputs) (fas : List ILCMap) :
    Fillable c (.broadcastForceDemand, forceArgs n i b inp fas) := by
  obtain ⟨hsaa, hdaa, hsec⟩ := gather_sized n i inp fas
  intro f hf
  simp only [fieldOk, forceFieldOk] at hf
  unfold fieldValues
  cases hname : f.name with
  | counter => simp_all [forceArgs]
  | slew => simp_all [forceArgs]
  | saaPrimary first => exact slice_isSome (by simp_all [forceArgs])
  | daaPrimary first => exact slice_isSome (by simp_all [forceArgs])
  | daaSecondary first => exact slice_isSome (by simp_all [forceArgs])
  | steps | other => simp [hname] at hf

theorem fillable_step {c : Config} {inp : Inputs} (hsteps : inp.steps.length = c.nHP) (b : BitVec 8) :
    Fillable c (.broadcastStepMotor, stepArgs b inp) := by
  intro f hf
  simp only [fieldOk, stepFieldOk] at hf
  unfold fieldValues
  cases hname : f.name with
  | counter => simp_all [stepArgs]
  | steps first => exact slice_isSome (by simp_all [stepArgs])
  | slew | saaPrimary | daaPrimary | daaSecondary | other => simp [hname] at hf

theorem fillable_freeze (c : Config) (b : BitVec 8) : Fillable c (.broadcastFreezeSensor, freezeArgs b) := by
  intro f hf
  simp only [fieldOk, freezeFieldOk] at hf
  unfold fieldValues
  cases hname : f.name with
  | counter => simp_all [freezeArgs]
  | steps | slew | saaPrimary | daaPrimary | daaSecondary | other => simp [hname] at hf

/-- The status frames have no arguments, and no field to fill. -/
theorem fillable_status (c : Config) {k : CmdType} (h : tailKind k = some .unicast) : Fillable c (k, noArgs) := by
  intro f hf
  dsimp only at hf
  unfold fieldOk at hf
  split at hf
  · exact nomatch h
  · exact nomatch h
  · exact nomatch h
  · exact nomatch hf

/-- The broadcast frame of a hardpoint section, whichever the profile has. -/
theorem fillable_hpCall {c : Config} {P : Profile} {b : BitVec 8} {inp : Inputs} (hsteps : inp.steps.length = c.nHP) {k : Call}
    (h : hpCall P b inp = some k) : Fillable c k := by
  unfold hpCall at h
  split at h <;> cases h
  · exact fillable_step hsteps b
  · exact fillable_freeze c b

/-! ## The tables of one frame -/

theorem commandKnown_iff {c : Config} {k : CmdType} :
    commandKnown c k = true ↔ ∃ e T, c.entry k = some e ∧ c.timeoutOf k = some T ∧ e.payload.all (fieldOk c k) = true := by
  unfold commandKnown
  cases c.entry k <;> cases c.timeoutOf k <;> simp

/-- Once the arguments fit, consulting the tables for a known command turns on its time-out alone. -/
theorem frameParts_known {c : Config} {k : Call} (hfill : Fillable c k) (hknown : commandKnown c k.1 = true) :
    (TimeoutTooLong c k.1 ∧ frameParts c k.1 (bindNamed k.2) = .error (.refuse .operandRange))
      ∨ (¬ TimeoutTooLong c k.1 ∧ ∃ p, frameParts c k.1 (bindNamed k.2) = .ok p) := by
  obtain ⟨e, T, he, hT, hfields⟩ := commandKnown_iff.mp hknown
  obtain ⟨d, hd⟩ := Option.isSome_iff_exists.mp
    (bindNamed_isSome (env := k.2) fun f hf => hfill f (List.all_eq_true.mp hfields f hf))
  have hlong : TimeoutTooLong c k.1 ↔ 4094999 < T.toNat := by simp [TimeoutTooLong, hT]
  rw [hlong]
  by_cases hmax : 4094999 < T.toNat
  · exact .inl ⟨hmax, frameParts_tooLong he hT hd hmax⟩
  · exact .inr ⟨hmax, _, frameParts_eq_ok.mpr ⟨e, T, d, he, hT, hd, Nat.not_lt.mp hmax, rfl⟩⟩

theorem frameParts_ready {c : Config} {k : Call} (hfill : Fillable c k) (hready : CommandReady c k.1) :
    ∃ p, frameParts c k.1 (bindNamed k.2) = .ok p := by
  obtain ⟨hlong, -⟩ | ⟨-, hok⟩ := frameParts_known hfill hready.1
  · exact absurd hlong hready.2
  · exact hok

/-- Consulting the tables never faults. -/
theorem frameParts_cases (c : Config) (k : CmdType) (bind : List PayloadField → Option (List Byte)) :
    (∃ p, frameParts c k bind = .ok p) ∨ ∃ e, frameParts c k bind = .error (.refuse e) := by
  unfold frameParts
  split
  · split
    · split
      · exact .inl ⟨_, rfl⟩
      · exact .inr ⟨_, rfl⟩
    · exact .inr ⟨_, rfl⟩
  · exact .inr ⟨_, rfl⟩

theorem callVerdict_eq_some {c : Config} {k : Call} {e : PortEvent} :
    callVerdict c k = some e ↔ frameParts c k.1 (bindNamed k.2) = .error (.refuse e) := by
  unfold callVerdict
  obtain ⟨p, hp⟩ | ⟨e', he⟩ := frameParts_cases c k.1 (bindNamed k.2)
  · simp [hp]
  · simp [he]

theorem callVerdict_eq_none {c : Config} {k : Call} :
    callVerdict c k = none ↔ ∃ p, frameParts c k.1 (bindNamed k.2) = .ok p := by
  unfold callVerdict
  obtain ⟨p, hp⟩ | ⟨e, he⟩ := frameParts_cases c k.1 (bindNamed k.2)
  · simp [hp]
  · simp [he]

/-! ## The tables of all the frames together -/

theorem callsVerdict_refused {c : Config} {ks : List Call} {k : Call} (hk : k ∈ ks)
    (h : callVerdict c k = some .refused) : callsVerdict c ks = some .refused :=
  if_pos (List.mem_filterMap.mpr ⟨k, hk, h⟩)

/-- With none refused, the verdict is the first event left. -/
theorem callsVerdict_of_not_refused {c : Config} {ks : List Call} (h : ∀ k ∈ ks, callVerdict c k ≠ some .refused) :
    callsVerdict c ks = (ks.filterMap (callVerdict c)).head? := by
  refine if_neg fun hmem => ?_
  obtain ⟨k, hk, hrefused⟩ := List.mem_filterMap.mp hmem
  exact h k hk hrefused

theorem callsVerdict_eq_none {c : Config} {ks : List Call} :
    callsVerdict c ks = none ↔ ∀ k ∈ ks, ∃ p, frameParts c k.1 (bindNamed k.2) = .ok p := by
  simp only [← callVerdict_eq_none]
  constructor
  · intro h
    have hnot : ∀ k ∈ ks, callVerdict c k ≠ some .refused := fun k hk hrefused =>
      nomatch (callsVerdict_refused hk hrefused).symm.trans h
    rw [callsVerdict_of_not_refused hnot, List.head?_eq_none_iff, List.filterMap_eq_nil_iff] at h
    exact h
  · intro h
    rw [callsVerdict_of_not_refused fun k hk => by simp [h k hk], List.head?_eq_none_iff, List.filterMap_eq_nil_iff]
    exact h

/-- With none refused and one time-out out of range, the verdict is `OperandRange` (60_exceptions R305). -/
theorem callsVerdict_operandRange {c : Config} {ks : List Call} (hnot : ∀ k ∈ ks, callVerdict c k ≠ some .refused) {k : Call}
    (hk : k ∈ ks) (h : callVerdict c k = some .operandRange) : callsVerdict c ks = some .operandRange := by
  cases hv : callsVerdict c ks with
  | none =>
    obtain ⟨p, hp⟩ := callsVerdict_eq_none.mp hv k hk
    exact nomatch (callVerdict_eq_some.mp h).symm.trans hp
  | some e =>
    rw [callsVerdict_of_not_refused hnot] at hv
    obtain ⟨k', hk', he⟩ := List.mem_filterMap.mp (List.mem_of_head? hv)
    cases e with
    | refused => exact absurd he (hnot k' hk')
    | operandRange => rfl

/-- All tables are in order. -/
theorem callsVerdict_ready {c : Config} {ks : List Call} (hfill : ∀ k ∈ ks, Fillable c k)
    (hready : ∀ k ∈ ks.map Prod.fst, CommandReady c k) : callsVerdict c ks = none :=
  callsVerdict_eq_none.mpr fun k hk => frameParts_ready (hfill k hk) (hready k.1 (List.mem_map_of_mem hk))

theorem callsVerdict_missing {c : Config} {ks : List Call} (h : ∃ k ∈ ks.map Prod.fst, CommandMissing c k) :
    callsVerdict c ks = some .refused := by
  obtain ⟨cmd, hcmd, hmissing⟩ := h
  obtain ⟨k, hk, rfl⟩ := List.mem_map.mp hcmd
  exact callsVerdict_refused hk (callVerdict_eq_some.mpr (frameParts_missing hmissing))

theorem callsVerdict_tooLong {c : Config} {ks : List Call} (hfill : ∀ k ∈ ks, Fillable c k)
    (hknown : ∀ k ∈ ks.map Prod.fst, commandKnown c k = true) (h : ∃ k ∈ ks.map Prod.fst, TimeoutTooLong c k) :
    callsVerdict c ks = some .operandRange := by
  obtain ⟨cmd, hcmd, hlong⟩ := h
  obtain ⟨k, hk, rfl⟩ := List.mem_map.mp hcmd
  have hparts : ∀ k ∈ ks, _ := fun k hk => frameParts_known (hfill k hk) (hknown k.1 (List.mem_map_of_mem hk))
  refine callsVerdict_operandRange (fun k' hk' hrefused => ?_) hk (callVerdict_eq_some.mpr ?_)
  · have hstop := callVerdict_eq_some.mp hrefused
    obtain ⟨-, hrange⟩ | ⟨-, p, hp⟩ := hparts k' hk'
    · exact nomatch hstop.symm.trans hrange
    · exact nomatch hstop.symm.trans hp
  · obtain ⟨-, hrange⟩ | ⟨hnot, -⟩ := hparts k hk
    · exact hrange
    · exact absurd hlong hnot

/-! ## The frames of `BUILD` and of `UPDATE` -/

theorem map_fst_hpCall (P : Profile) (b : BitVec 8) (inp : Inputs) :
    (hpCall P b inp).toList.map Prod.fst = (hpCommand P).toList := by
  unfold hpCall hpCommand
  cases P.hpBroadcast <;> rfl

/-- The calls of `BUILD` on a subnet are of the commands it is said to compose frames of. -/
theorem map_fst_buildCallsOn (T : Topology) (P : Profile) (inp : Inputs) (s : State) (i : Subnet) :
    (buildCallsOn T P inp s i).map Prod.fst = buildCommandsOn T P s i := by
  simp [buildCallsOn, buildCommandsOn, apply_ite (List.map Prod.fst), map_fst_hpCall]

theorem map_fst_updateCallsOn (T : Topology) (inp : Inputs) (s : State) (i : Subnet) :
    (updateCallsOn T s.profile inp s i).map Prod.fst = updateCommandsOn s i := by
  simp [updateCallsOn, updateCommandsOn, apply_ite (List.map Prod.fst), map_fst_hpCall, and_assoc]

theorem map_fst_buildCalls (T : Topology) (P : Profile) (inp : Inputs) (s : State) :
    (subnets.flatMap (buildCallsOn T P inp s)).map Prod.fst = buildCommands T P s := by
  rw [List.map_flatMap, buildCommands]
  simp only [map_fst_buildCallsOn]

theorem map_fst_updateCalls (T : Topology) (inp : Inputs) (s : State) :
    (subnets.flatMap (updateCallsOn T s.profile inp s)).map Prod.fst = updateCommands s := by
  rw [List.map_flatMap, updateCommands]
  simp only [map_fst_updateCallsOn]

theorem fillable_buildCalls {T : Topology} {P : Profile} {inp : Inputs} {s : State} (hshaped : Shaped s inp) :
    ∀ k ∈ subnets.flatMap (buildCallsOn T P inp s), Fillable s.cfg k := by
  intro k hk
  obtain ⟨i, -, hk⟩ := List.mem_flatMap.mp hk
  simp only [buildCallsOn, List.mem_append, List.mem_ite_nil_right, List.mem_cons, List.not_mem_nil, or_false,
    Option.mem_toList] at hk
  rcases hk with ((((⟨-, rfl⟩ | ⟨-, rfl | rfl⟩) | ⟨-, hk⟩) | ⟨-, rfl | rfl⟩) | ⟨-, rfl | rfl | rfl⟩) | ⟨-, rfl⟩
  · exact fillable_force _ _ _ _ _ _
  · exact fillable_status _ rfl
  · exact fillable_status _ rfl
  · exact fillable_hpCall hshaped.2 hk
  all_goals exact fillable_status _ rfl

theorem fillable_updateCalls {T : Topology} {P : Profile} {inp : Inputs} {s : State} (hshaped : Shaped s inp) :
    ∀ k ∈ subnets.flatMap (updateCallsOn T P inp s), Fillable s.cfg k := by
  intro k hk
  obtain ⟨i, -, hk⟩ := List.mem_flatMap.mp hk
  simp only [updateCallsOn, List.mem_append, List.mem_ite_nil_right, List.mem_cons, List.not_mem_nil, or_false,
    Option.mem_toList] at hk
  rcases hk with ((⟨-, rfl⟩ | ⟨-, rfl⟩) | ⟨-, hk⟩) | ⟨-, rfl⟩
  · exact fillable_force _ _ _ _ _ _
  · exact fillable_status _ rfl
  · exact fillable_hpCall hshaped.2 hk
  · exact fillable_status _ rfl

/-! ## `BUILD`, admitted or not -/

theorem inputsFit_iff {s : State} {inp : Inputs} : inputsFit s.cfg inp = true ↔ Shaped s inp := by
  simp [inputsFit, Shaped]

theorem exec_build (v : Byte) (inp : Inputs) (s : State) :
    exec (.build v inp.primary inp.secondary inp.slew inp.steps) s = finish s (buildSchedule v inp s) := rfl

theorem exec_update (inp : Inputs) (s : State) :
    exec (.update inp.primary inp.secondary inp.slew inp.steps) s = finish s (updateSchedule inp s) := rfl

theorem turnedAway_of_finish {o : Out} {s : State} {r : Run} {e : PortEvent} (ho : o = finish s r)
    (hr : r = .error (.refuse e)) : TurnedAway o s e := by
  rw [ho, hr]
  rfl

theorem variantOf_eq_none {v : Byte} (h : 3 < v.toNat) : variantOf v = none := by
  unfold variantOf
  split <;> first | omega | rfl

theorem buildSchedule_unconfigured {s : State} (h : s.phase = .unconfigured) (v : Byte) (inp : Inputs) :
    buildSchedule v inp s = .error (.refuse .refused) := by
  unfold buildSchedule
  rw [h]

theorem buildSchedule_outside {s : State} {v : Byte} {inp : Inputs}
    (h : 3 < v.toNat ∨ s.openBlock.isSome = true ∨ ¬ Shaped s inp) : buildSchedule v inp s = .error (.refuse .refused) := by
  unfold buildSchedule
  split
  · rfl
  · rename_i T x _ hx _
    refine if_neg fun hadm => ?_
    obtain ⟨hfit, hopen⟩ := hadm
    rcases h with hv | hblock | hshape
    · exact nomatch (variantOf_eq_none hv).symm.trans hx
    · rw [hopen] at hblock
      exact nomatch hblock
    · exact hshape (inputsFit_iff.mp hfit)
  · rfl

/-- An admitted `BUILD` turns on the verdict of its tables. -/
theorem buildSchedule_admitted {s : State} {T : Topology} {v : Byte} {x : Variant} {inp : Inputs} (h : BuildAdmitted s T inp)
    (hx : variantOf v = some x) :
    buildSchedule v inp s =
      ((callsVerdict s.cfg (subnets.flatMap (buildCallsOn T (s.cfg.profiles.profile x) inp s))).elim (buildRun T x inp s)
        fun e => .error (.refuse e)) := by
  obtain ⟨hphase, hT, hopen, hshaped⟩ := h
  unfold buildSchedule
  rw [hT, hx]
  cases hp : s.phase with
  | unconfigured => exact absurd hp hphase
  | configured | built =>
    dsimp only
    rw [if_pos ⟨inputsFit_iff.mpr hshaped, hopen⟩]
    cases callsVerdict s.cfg _ <;> rfl

/-- Settles O44: outside its domain `BUILD` is refused before its tables are looked at, and inside it their verdict decides. -/
theorem buildOutsideItsDomainIsTurnedAway : Obligations.BuildOutsideItsDomainIsTurnedAway := by
  intro s v inp
  refine ⟨fun h => turnedAway_of_finish (exec_build v inp s) (buildSchedule_outside h), fun T x hadm hx => ⟨?missing, ?long⟩⟩
  case missing =>
    intro hmissing
    refine turnedAway_of_finish (exec_build v inp s) ?_
    rw [buildSchedule_admitted hadm hx, callsVerdict_missing (by rwa [map_fst_buildCalls])]
    rfl
  case long =>
    intro hknown hlong
    refine turnedAway_of_finish (exec_build v inp s) ?_
    rw [buildSchedule_admitted hadm hx, callsVerdict_tooLong (fillable_buildCalls hadm.2.2.2)
      (by rwa [map_fst_buildCalls]) (by rwa [map_fst_buildCalls])]
    rfl

/-! ## `UPDATE`, admitted or not -/

theorem updateSchedule_notBuilt {s : State} (h : s.phase ≠ .built) (inp : Inputs) :
    updateSchedule inp s = .error (.refuse .refused) := by
  unfold updateSchedule
  split
  · exact absurd ‹s.phase = .built› h
  · rfl

theorem updateSchedule_misshapen {s : State} {inp : Inputs} (h : ¬ Shaped s inp) :
    updateSchedule inp s = .error (.refuse .refused) := by
  unfold updateSchedule
  split
  · exact if_neg fun hadm => h (inputsFit_iff.mp hadm.1)
  · rfl

theorem slotsKnown_iff {s : State} : slotsKnown s = true ↔ (HasSlots s → s.cfg.entry .reportLvdt ≠ none) := by
  simp only [slotsKnown, HasSlots, Bool.or_eq_true, List.all_eq_true, Option.isSome_iff_ne_none, Option.isNone_iff_eq_none,
    List.isEmpty_iff, ne_eq]
  constructor
  · rintro (h | h) ⟨i, hoff, hds⟩
    · exact h
    · exact absurd (h i (mem_subnets i)) (not_or.mpr ⟨hoff, hds⟩)
  · intro h
    by_cases hentry : s.cfg.entry .reportLvdt = none
    · refine .inr fun i _ => ?_
      by_contra hi
      rw [not_or] at hi
      exact h ⟨i, hi⟩ hentry
    · exact .inl hentry

/-- An admitted `UPDATE` whose slots have a length turns on the verdict of its tables. -/
theorem updateSchedule_admitted {s : State} {T : Topology} {inp : Inputs} (h : UpdateAdmitted s T inp)
    (hslots : HasSlots s → s.cfg.entry .reportLvdt ≠ none) :
    updateSchedule inp s =
      ((callsVerdict s.cfg (subnets.flatMap (updateCallsOn T s.profile inp s))).elim (updateRun T inp s)
        fun e => .error (.refuse e)) := by
  obtain ⟨hphase, hT, hshaped⟩ := h
  unfold updateSchedule
  rw [hphase, hT]
  dsimp only
  rw [if_pos ⟨inputsFit_iff.mpr hshaped, slotsKnown_iff.mpr hslots⟩]
  unfold State.profile
  cases callsVerdict s.cfg _ <;> rfl

theorem updateSchedule_slotsUnknown {s : State} (hslots : HasSlots s) (hentry : s.cfg.entry .reportLvdt = none)
    (inp : Inputs) : updateSchedule inp s = .error (.refuse .refused) := by
  unfold updateSchedule
  split
  · exact if_neg fun hadm => slotsKnown_iff.mp hadm.2 hslots hentry
  · rfl

/-- Settles O60: outside its domain `UPDATE` is refused before its tables are looked at, and inside it their verdict decides; a
placeholder's missing entry is looked for before them all. -/
theorem updateOutsideItsDomainIsTurnedAway : Obligations.UpdateOutsideItsDomainIsTurnedAway := by
  intro s inp
  refine ⟨fun h => turnedAway_of_finish (exec_update inp s) (updateSchedule_misshapen h), fun T hadm => ⟨?missing, ?long⟩⟩
  case missing =>
    intro hmissing
    refine turnedAway_of_finish (exec_update inp s) ?_
    by_cases hslots : HasSlots s → s.cfg.entry .reportLvdt ≠ none
    · have hcommand : ∃ k ∈ updateCommands s, CommandMissing s.cfg k :=
        hmissing.resolve_right fun hslot => hslots hslot.1 hslot.2
      rw [updateSchedule_admitted hadm hslots, callsVerdict_missing (by rwa [map_fst_updateCalls])]
      rfl
    · rw [Classical.not_imp, not_ne_iff] at hslots
      exact updateSchedule_slotsUnknown hslots.1 hslots.2 inp
  case long =>
    intro hknown hslots hlong
    refine turnedAway_of_finish (exec_update inp s) ?_
    rw [updateSchedule_admitted hadm hslots, callsVerdict_tooLong (fillable_updateCalls hadm.2.2)
      (by rwa [map_fst_updateCalls]) (by rwa [map_fst_updateCalls])]
    rfl

/-- Settles O52: the phase is the first thing each of the four operations looks at. -/
theorem phasesRefuseWhatTheyDoNotAdmit : Obligations.PhasesRefuseWhatTheyDoNotAdmit := by
  intro s v inp k i b
  refine ⟨fun hphase => ⟨?disabled, ?expected, ?build⟩, fun hphase => ?update⟩
  case disabled => exact turnedAway_of_finish rfl (by rw [hphase])
  case expected =>
    show answer s _ = _
    rw [if_neg fun h => h.1 hphase]
    rfl
  case build => exact turnedAway_of_finish (exec_build v inp s) (buildSchedule_unconfigured hphase v inp)
  case update => exact turnedAway_of_finish (exec_update inp s) (updateSchedule_notBuilt hphase inp)

end Sys2Proof.Machine
end

section
/-! In-place patching (47_buslist R270, R279): `UPDATE` stores whole frames at recorded offsets and nothing else, so every word
outside them stays, and so does the layout. No legal configuration is assumed. -/

namespace Sys2Proof.Machine

/-! ## Runs of words with a known first word -/

/-- As far as the buffer goes, `t` is `s` with `n` words stored at the cursor, the first of them `w`, and the cursor past them. -/
def Stored (s t : State) (n : Nat) (w : Word) : Prop :=
  ∃ ws : List Word, ws.length = n ∧ ws.head? = some w ∧ s.cursor.toNat + n ≤ 65535 ∧ t.cfg = s.cfg
    ∧ t.mem = (s.placed ws).mem ∧ t.cursor = (s.placed ws).cursor

theorem Stored.placed {s : State} {w : Word} {ws : List Word} (hf : Fits s (w :: ws).length) :
    Stored s (s.placed (w :: ws)) (w :: ws).length w :=
  ⟨w :: ws, rfl, rfl, hf.2, rfl, rfl, rfl⟩

theorem Stored.trans {s t u : State} {n m : Nat} {w v : Word} (h : Stored s t n w) (g : Stored t u m v) :
    Stored s u (n + m) w := by
  obtain ⟨ws, rfl, hw, hfit, hcfg, hmem, hcur⟩ := h
  obtain ⟨vs, rfl, -, hfit', hcfg', hmem', hcur'⟩ := g
  have hpp := placed_placed (vs := vs) hfit
  have hpos : t.cursor.toNat = s.cursor.toNat + ws.length := hcur ▸ placed_cursor_toNat hfit
  refine ⟨ws ++ vs, List.length_append, ?_, by omega, hcfg'.trans hcfg, ?_, ?_⟩
  · rw [List.head?_append, hw]
    rfl
  · rw [← hpp, hmem', State.placed_mem, State.placed_mem, hmem, hcur]
  · rw [← hpp, hcur', State.placed_cursor, State.placed_cursor, hcur]

/-- A scheduled frame that completes has stored as many words as its command has, its address first. -/
theorem scheduled_stored {k : CmdType} {a : Byte} {env : FieldArgs} {s t : State} (h : scheduled k a env s = .ok t) :
    Stored s t (frameWords s.cfg k) (tag s.cfg a) := by
  obtain ⟨p, hp, h⟩ := bind_eq_ok.mp h
  obtain ⟨e, _, d, he, -, hd, -, rfl⟩ := frameParts_eq_ok.mp hp
  obtain ⟨hf, rfl⟩ := frame_eq_ok.mp h
  rw [frameWords_eq he, ← bindNamed_length hd, ← frameList_length s.cfg a e.function d]
  rw [← frameList_length s.cfg a e.function d] at hf
  exact .placed hf

theorem pollFrame_stored {i : Subnet} {d : ILCMap} {s t : State} (h : pollFrame i d s = .ok t) :
    Stored s t (frameWords s.cfg .reportServerStatus) (tag s.cfg d.address) := by
  obtain ⟨u, hu, h⟩ := bind_eq_ok.mp h
  cases h
  exact (scheduled_stored hu :)

theorem hpFrame_stored {P : Profile} {inp : Inputs} {s t : State} (hP : P.hpBroadcast ≠ .none) (h : hpFrame P inp s = .ok t) :
    Stored s t (hpWords s.cfg P) (tag s.cfg addrBcastHP) := by
  unfold hpFrame hpCall at h
  unfold hpWords hpCommand
  cases hb : P.hpBroadcast with
  | none => exact absurd hb hP
  | stepMotor | freeze =>
    rw [hb] at h
    exact scheduled_stored h

theorem hpFrame_none {P : Profile} {inp : Inputs} {s t : State} (hP : P.hpBroadcast = .none) (h : hpFrame P inp s = .ok t) :
    t = s := by
  unfold hpFrame hpCall at h
  rw [hP] at h
  cases h
  rfl

/-- The first word of an LVDT slot is its monitor's address or the placeholder's word. -/
theorem lvdtSlot_stored {d : ILCMap} {s t : State} (h : lvdtSlot d s = .ok t) :
    ∃ w, Stored s t (frameWords s.cfg .reportLvdt) w ∧ (w = tag s.cfg d.address ∨ w = s.cfg.nopWord) := by
  unfold lvdtSlot at h
  split at h
  · obtain ⟨u, hu, h⟩ := bind_eq_ok.mp h
    cases h
    exact ⟨_, (scheduled_stored hu :), .inl rfl⟩
  · split at h
    · rename_i e he
      obtain ⟨u, hu, h⟩ := bind_eq_ok.mp h
      cases h
      obtain ⟨hf, rfl⟩ := emit_eq_ok.mp hu
      have hslot : Stored s (s.placed (List.replicate (payloadLength e.payload + 6) s.cfg.nopWord)) _ s.cfg.nopWord :=
        .placed hf
      have hwidth : (List.replicate (payloadLength e.payload + 6) s.cfg.nopWord).length = frameWords s.cfg .reportLvdt := by
        rw [List.length_replicate, frameWords_eq he]
      exact ⟨_, hwidth ▸ hslot, .inr rfl⟩
    · cases h

/-- An LVDT block begins as its first slot does. -/
theorem lvdtSlots_stored {d : ILCMap} {ds : List ILCMap} {s t : State} (h : runAll lvdtSlot (d :: ds) s = .ok t) :
    ∃ w, Stored s t ((d :: ds).length * frameWords s.cfg .reportLvdt) w
      ∧ (w = tag s.cfg d.address ∨ w = s.cfg.nopWord) := by
  induction ds generalizing d s with
  | nil =>
    obtain ⟨u, hu, h⟩ := bind_eq_ok.mp h
    cases h
    simpa using lvdtSlot_stored hu
  | cons d' ds ih =>
    obtain ⟨u, hu, h⟩ := bind_eq_ok.mp h
    obtain ⟨w, hfirst, hw⟩ := lvdtSlot_stored hu
    obtain ⟨_, hrest, -⟩ := ih h
    have hcfg : u.cfg = s.cfg := (lvdtSlot_framed hu).choose_spec.1.cfg
    rw [hcfg] at hrest
    refine ⟨w, ?_, hw⟩
    rw [List.length_cons, Nat.succ_mul, Nat.add_comm]
    exact hfirst.trans hrest

/-! ## Rewriting recorded frames -/

/-- What `UPDATE` writes of no subnet: the offsets and the latched monitors. -/
def SubnetRegs.places (r : SubnetRegs) : (Option Index × Option Index × Option Index × Option Index) × List ILCMap :=
  ((r.fdOffset, r.stepOffset, r.pollOffset, r.lvdtOffset), r.hmSched)

theorem SubnetRegs.recorded_congr {r r' : SubnetRegs} (h : r'.places = r.places) (k : PatchKind) :
    r'.recorded k = r.recorded k := by
  simp only [SubnetRegs.places, Prod.mk.injEq] at h
  obtain ⟨⟨hfd, hstep, hpoll, hlvdt⟩, hds⟩ := h
  cases k <;> simp only [SubnetRegs.recorded, hfd, hstep, hpoll, hlvdt, hds]

/-- One frame recorded in `s` is stored whole at its offset. -/
def Rewrite (T : Topology) (s : State) (m m' : Memory) : Prop :=
  ∃ (i : Subnet) (k : PatchKind) (q : PatchRecord) (ws : List Word) (w : Word), s.sub[i].recorded k = some q
    ∧ ws.length = k.width s.cfg s.profile q.2 ∧ ws.head? = some w ∧ k.Starts T s.cfg s.profile i q.2 w
    ∧ m' = m.writeAll q.1.toNat ws

/-- `UPDATE` on its way from `s` to `t`: what is recorded stays, and frames recorded are rewritten whole. -/
structure Patching (T : Topology) (s t : State) : Prop where
  cfg : t.cfg = s.cfg
  variant : t.variant = s.variant
  places : ∀ i : Subnet, t.sub[i].places = s.sub[i].places
  words : Relation.ReflTransGen (Rewrite T s) s.mem t.mem

theorem Patching.profile {T : Topology} {s t : State} (h : Patching T s t) : t.profile = s.profile := by
  rw [State.profile, h.cfg, h.variant]

theorem Patching.recorded {T : Topology} {s t : State} (h : Patching T s t) (i : Subnet) (k : PatchKind) :
    t.sub[i].recorded k = s.sub[i].recorded k :=
  SubnetRegs.recorded_congr (h.places i) k

theorem Patching.rewriteSpans_eq {T : Topology} {s t : State} (h : Patching T s t) : rewriteSpans t = rewriteSpans s := by
  refine congrArg subnets.flatMap (funext fun i => ?_)
  rw [rewriteSpansOn_eq, rewriteSpansOn_eq, h.cfg, h.profile]
  simp only [h.recorded]

theorem Patching.refl (T : Topology) (s : State) : Patching T s s := ⟨rfl, rfl, fun _ => rfl, .refl⟩

theorem Patching.trans {T : Topology} {s t u : State} (h : Patching T s t) (g : Patching T t u) : Patching T s u where
  cfg := g.cfg.trans h.cfg
  variant := g.variant.trans h.variant
  places i := (g.places i).trans (h.places i)
  words := by
    have hstep : ∀ m m', Rewrite T t m m' → Rewrite T s m m' := by
      rintro m m' ⟨i, k, q, ws, w, hq, hlen, hhead, hw, hm⟩
      rw [h.cfg, h.profile] at hlen hw
      exact ⟨i, k, q, ws, w, h.recorded i k ▸ hq, hlen, hhead, hw, hm⟩
    exact h.words.trans (Relation.ReflTransGen.mono hstep _ _ g.words)

/-- The same registers as far as `UPDATE` leaves them alone, in every subnet of a state it has moved to. -/
theorem Moves.patching {T : Topology} {s t : State} (hm : Moves T false s t)
    (hplaces : ∀ i : Subnet, t.sub[i].places = s.sub[i].places)
    (hwords : Relation.ReflTransGen (Rewrite T s) s.mem t.mem) : Patching T s t :=
  ⟨hm.kept.cfg, hm.kept.variant, hplaces, hwords⟩

/-- A run of words stored at the offset of a recorded frame, as long as the frame, rewrites it. -/
theorem Stored.rewrite {T : Topology} {s t : State} {i : Subnet} {k : PatchKind} {q : PatchRecord} {n : Nat} {w : Word} {u : State}
    (h : Stored (seek q.1 u) t n w) (hmem : u.mem = s.mem) (hq : s.sub[i].recorded k = some q)
    (hn : n = k.width s.cfg s.profile q.2) (hw : k.Starts T s.cfg s.profile i q.2 w) :
    Relation.ReflTransGen (Rewrite T s) s.mem t.mem := by
  obtain ⟨ws, hlen, hhead, -, -, ht, -⟩ := h
  refine .single ⟨i, k, q, ws, w, hq, hlen.trans hn, hhead, hw, ?_⟩
  rw [ht, ← hmem]
  rfl

/-! ## The four rewrites of a subnet -/

theorem updateForce_patching {T : Topology} {inp : Inputs} {i : Subnet} {s t : State}
    (h : updateForce T inp i s = .ok t) : Patching T s t := by
  refine (updateForce_moves h).patching (fun j => by rw [updateForce_sub h]) ?_
  unfold updateForce at h
  split at h
  · rename_i off hoff
    exact (scheduled_stored h).rewrite (i := i) (k := .force) (q := (off, [])) rfl
      (by rw [SubnetRegs.recorded, hoff]; rfl) rfl .force
  · cases h
    exact .refl

theorem updatePoll_patching {T : Topology} {i : Subnet} {s t : State} (h : updatePoll T i s = .ok t) : Patching T s t := by
  refine (updatePoll_moves h).patching (fun j => ?places) ?words
  case places =>
    rcases updatePoll_sub h with ⟨-, hsub⟩ | ⟨d, -, -, hsub⟩
    · rw [hsub]
    · rw [hsub]
      by_cases hj : j = i
      · subst hj
        rw [State.modSub_sub_self]
        rfl
      · rw [State.modSub_sub_of_ne s _ hj]
  case words =>
    unfold updatePoll at h
    split at h
    · cases h
      exact .refl
    · rename_i off hoff
      obtain ⟨next, -, h⟩ := bind_eq_ok.mp h
      dsimp only at h
      split at h
      · rename_i d hd
        have hfa : d ∈ T[i].fa := (List.mem_filter.mp (List.mem_of_getElem? hd)).1
        obtain ⟨ws, hlen, hhead, -, -, ht, -⟩ := pollFrame_stored h
        simp only [restorePolled_cfg, seek_cfg, State.modSub_cfg] at hlen hhead
        refine .single ⟨i, .poll, (off, []), ws, _, by rw [SubnetRegs.recorded, hoff]; rfl, hlen, hhead, .poll d hfa, ?_⟩
        rw [ht]
        simp
      · cases h

theorem updateStep_patching {T : Topology} {inp : Inputs} {i : Subnet} {s t : State}
    (h : updateStep s.profile inp i s = .ok t) : Patching T s t := by
  refine (updateStep_moves h).patching (fun j => by rw [updateStep_sub h]) ?_
  unfold updateStep at h
  split at h
  · rename_i off hoff
    by_cases hP : s.profile.hpBroadcast = .none
    · rw [hpFrame_none hP h]
      exact .refl
    · exact (hpFrame_stored hP h).rewrite (i := i) (k := .step) (q := (off, [])) rfl
        (by rw [SubnetRegs.recorded, hoff]; rfl) rfl (.step hP)
  · cases h
    exact .refl

theorem updateLvdt_patching {T : Topology} {i : Subnet} {s t : State} (h : updateLvdt i s = .ok t) : Patching T s t := by
  refine (updateLvdt_moves h).patching (fun j => by rw [updateLvdt_sub h]) ?_
  unfold updateLvdt at h
  split at h
  · rename_i off hoff
    cases hds : s.sub[i].hmSched with
    | nil =>
      rw [hds] at h
      cases h
      exact .refl
    | cons d ds =>
      rw [hds] at h
      obtain ⟨w, hstored, hw⟩ := lvdtSlots_stored h
      exact hstored.rewrite (i := i) (k := .lvdt) (q := (off, d :: ds)) rfl (by rw [SubnetRegs.recorded, hoff, hds]; rfl) rfl
        (.slot d w rfl hw)
  · cases h
    exact .refl

theorem updateSubnet_patching {T : Topology} {P : Profile} {inp : Inputs} {i : Subnet} {s t : State} (hP : s.profile = P)
    (h : updateSubnet T P inp i s = .ok t) : Patching T s t := by
  obtain ⟨s1, hforce, h⟩ := bind_eq_ok.mp h
  obtain ⟨s2, hpoll, h⟩ := bind_eq_ok.mp h
  obtain ⟨s3, hstep, hlvdt⟩ := bind_eq_ok.mp h
  have h2 : Patching T s s2 := (updateForce_patching hforce).trans (updatePoll_patching hpoll)
  rw [← hP, ← h2.profile] at hstep
  exact (h2.trans (updateStep_patching hstep)).trans (updateLvdt_patching hlvdt)

/-- Everything `UPDATE` has met when it completes: it was admitted, its slots have a length and its tables are in order. -/
theorem updateSchedule_inv {inp : Inputs} {s t : State} (h : updateSchedule inp s = .ok t) :
    ∃ T, UpdateAdmitted s T inp ∧ (HasSlots s → s.cfg.entry .reportLvdt ≠ none)
      ∧ (∀ k ∈ subnets.flatMap (updateCallsOn T s.profile inp s), ∃ p, frameParts s.cfg k.1 (bindNamed k.2) = .ok p)
      ∧ updateRun T inp s = .ok t := by
  by_cases hphase : s.phase = .built
  swap
  · exact nomatch (updateSchedule_notBuilt hphase inp).symm.trans h
  by_cases hshaped : Shaped s inp
  swap
  · exact nomatch (updateSchedule_misshapen hshaped).symm.trans h
  by_cases hslots : HasSlots s → s.cfg.entry .reportLvdt ≠ none
  swap
  · rw [Classical.not_imp, not_ne_iff] at hslots
    exact nomatch (updateSchedule_slotsUnknown hslots.1 hslots.2 inp).symm.trans h
  obtain ⟨T, -, -, hT, -, -⟩ := updateSchedule_ok h
  have hadm : UpdateAdmitted s T inp := ⟨hphase, hT, hshaped⟩
  rw [updateSchedule_admitted hadm hslots] at h
  cases hv : callsVerdict s.cfg (subnets.flatMap (updateCallsOn T s.profile inp s)) with
  | none =>
    rw [hv] at h
    exact ⟨T, hadm, hslots, callsVerdict_eq_none.mp hv, h⟩
  | some e =>
    rw [hv] at h
    exact nomatch h

theorem updateRun_patching {T : Topology} {inp : Inputs} {s t : State} (h : updateRun T inp s = .ok t) : Patching T s t := by
  obtain ⟨u, hu, h⟩ := bind_eq_ok.mp h
  cases h
  have hinit : Patching T s (updateInit s) := ⟨rfl, rfl, fun _ => rfl, .refl⟩
  have hrun : Patching T s u :=
    runAll_keeps (Patching T s) (fun i v w hv hw => hv.trans (updateSubnet_patching hv.profile hw)) subnets _ u hinit hu
  exact hrun.trans ⟨rfl, rfl, fun _ => rfl, .refl⟩

/-- Everything `UPDATE` leaves alone when it answers a next state: it was turned away, or it patched. -/
theorem update_patching {inp : Inputs} {s t : State}
    (h : exec (.update inp.primary inp.secondary inp.slew inp.steps) s = .next t) :
    (∃ e, t = turnAway e s) ∨ ∃ T u, UpdateAdmitted s T inp ∧ updateSchedule inp s = .ok u ∧ Patching T s u
      ∧ t = { u with out := .done } := by
  rcases finish_next.mp h with ⟨u, hu, rfl⟩ | ⟨e, -, rfl⟩
  · obtain ⟨T, hadm, -, -, hrun⟩ := updateSchedule_inv hu
    exact .inr ⟨T, u, hadm, hu, updateRun_patching hrun, rfl⟩
  · exact .inl ⟨e, rfl⟩

/-! ## What is outside the recorded frames -/

theorem mem_rewriteSpans {s : State} {i : Subnet} {k : PatchKind} {q : PatchRecord} (hq : s.sub[i].recorded k = some q) :
    k.span s.cfg s.profile q ∈ rewriteSpans s :=
  List.mem_flatMap.mpr ⟨i, mem_subnets i, mem_rewriteSpansOn.mpr ⟨k, q, hq, rfl⟩⟩

theorem Patching.read_outside {T : Topology} {s t : State} (h : Patching T s t) {a : Nat}
    (ha : ∀ p ∈ rewriteSpans s, a < p.1 ∨ p.2 ≤ a) : t.mem.read a = s.mem.read a := by
  have hwords := h.words
  generalize t.mem = m at hwords
  induction hwords with
  | refl => rfl
  | tail _ hstep ih =>
    obtain ⟨i, k, q, ws, w, hq, hlen, -, -, rfl⟩ := hstep
    have hout := ha _ (mem_rewriteSpans hq)
    rw [PatchKind.span, ← hlen] at hout
    exact (Memory.read_writeAll_of_not_mem _ (by omega)).trans ih

/-- Settles O49: `UPDATE` is moves that keep the registers named, and rewrites of recorded frames. -/
theorem updateTouchesOnlyTheRewrittenFrames : Obligations.UpdateTouchesOnlyTheRewrittenFrames := by
  intro s t inp h
  have heffect := exec_effect h
  obtain ⟨hvariant, hbase⟩ := heffect.variant_base_eq nofun
  obtain ⟨htopology, herror⟩ := heffect.topology_cfgError_eq nofun
  have hmain : (∀ a, (∀ p ∈ rewriteSpans s, a < p.1 ∨ p.2 ≤ a) → t.mem.read a = s.mem.read a)
      ∧ ∀ i : Subnet, t.sub[i].places = s.sub[i].places := by
    rcases update_patching h with ⟨e, rfl⟩ | ⟨T, u, -, -, hp, rfl⟩
    · exact ⟨fun _ _ => rfl, fun _ => rfl⟩
    · exact ⟨fun a ha => hp.read_outside ha, hp.places⟩
  refine ⟨hmain.1, fun i => ?_, heffect.length_eq nofun nofun, hvariant, hbase, heffect.phase_eq nofun nofun, htopology,
    heffect.disabled_eq nofun nofun, heffect.openBlock_eq nofun nofun, herror⟩
  have hplaces := hmain.2 i
  simp only [SubnetRegs.places, Prod.mk.injEq] at hplaces
  obtain ⟨⟨hfd, hstep, hpoll, hlvdt⟩, hds⟩ := hplaces
  exact ⟨hfd, hstep, hpoll, hlvdt, hds⟩

/-! ## The layout, before and after -/

/-- The layout by what is recorded: at each offset stands a word its frame may begin with. -/
theorem Layout.starts {s : State} {T : Topology} (h : Layout s) (hT : s.topology = some T) {i : Subnet} {k : PatchKind}
    {q : PatchRecord} (hq : s.sub[i].recorded k = some q) :
    ∃ w, s.mem.read q.1.toNat = some w ∧ k.Starts T s.cfg s.profile i q.2 w := by
  obtain ⟨-, -, -, hforce, hstep, hpoll, hlvdt⟩ := h
  cases k <;> obtain ⟨o, ho, rfl⟩ := Option.map_eq_some_iff.mp hq
  case force => exact ⟨_, hforce i o ho, .force⟩
  case poll =>
    obtain ⟨T', hT', d, hd, hread⟩ := hpoll i o ho
    obtain rfl : T = T' := Option.some.inj (hT.symm.trans hT')
    exact ⟨_, hread, .poll d hd⟩
  case step => exact ⟨_, (hstep i o ho).2, .step (hstep i o ho).1⟩
  case lvdt =>
    obtain ⟨d, hd, hread | hread⟩ := hlvdt i o ho
    · exact ⟨_, hread, .slot d _ hd (.inl rfl)⟩
    · exact ⟨_, hread, .slot d _ hd (.inr rfl)⟩

theorem layout_of_starts {s : State} {T : Topology} (hT : s.topology = some T) (hroom : s.length.toNat ≤ s.cfg.capacity)
    (hapart : (rewriteSpans s).Pairwise Span.apart) (hinside : ∀ p ∈ rewriteSpans s, p.2 ≤ s.length.toNat)
    (hstarts : ∀ (i : Subnet) (k : PatchKind) (q : PatchRecord), s.sub[i].recorded k = some q →
      ∃ w, s.mem.read q.1.toNat = some w ∧ k.Starts T s.cfg s.profile i q.2 w) : Layout s := by
  refine ⟨hroom, hapart, hinside, fun i o ho => ?force, fun i o ho => ?step, fun i o ho => ?poll, fun i o ho => ?lvdt⟩
  case force =>
    obtain ⟨w, hread, hw⟩ := hstarts i .force (o, []) (Option.map_eq_some_iff.mpr ⟨o, ho, rfl⟩)
    cases hw
    exact hread
  case step =>
    obtain ⟨w, hread, hw⟩ := hstarts i .step (o, []) (Option.map_eq_some_iff.mpr ⟨o, ho, rfl⟩)
    cases hw with
    | step hP => exact ⟨hP, hread⟩
  case poll =>
    obtain ⟨w, hread, hw⟩ := hstarts i .poll (o, []) (Option.map_eq_some_iff.mpr ⟨o, ho, rfl⟩)
    cases hw with
    | poll d hd => exact ⟨T, hT, d, hd, hread⟩
  case lvdt =>
    obtain ⟨w, hread, hw⟩ := hstarts i .lvdt (o, s.sub[i].hmSched) (Option.map_eq_some_iff.mpr ⟨o, ho, rfl⟩)
    cases hw with
    | slot d _ hd hword =>
      refine ⟨d, hd, hword.imp ?_ ?_⟩ <;> rintro rfl <;> exact hread

/-- Two different recorded frames share no word. -/
theorem recorded_apart {s : State} (h : (rewriteSpans s).Pairwise Span.apart) {i j : Subnet} {k l : PatchKind}
    {q r : PatchRecord} (hne : (i, k) ≠ (j, l)) (hq : s.sub[i].recorded k = some q) (hr : s.sub[j].recorded l = some r) :
    Span.apart (k.span s.cfg s.profile q) (l.span s.cfg s.profile r) := by
  obtain ⟨hwithin, hacross⟩ := List.pairwise_flatMap.mp h
  by_cases hij : i = j
  · subst hij
    have hkl : k ≠ l := fun hkl => hne (by rw [hkl])
    have hkinds := hwithin i (mem_subnets i)
    rw [rewriteSpansOn_eq] at hkinds
    have _ : Std.Symm fun k l : PatchKind => ∀ x ∈ (s.sub[i].recorded k).toList.map (k.span s.cfg s.profile),
        ∀ y ∈ (s.sub[i].recorded l).toList.map (l.span s.cfg s.profile), Span.apart x y :=
      ⟨fun _ _ hkl x hx y hy => (hkl y hy x hx).symm⟩
    have hmem : ∀ k : PatchKind, k ∈ [PatchKind.force, .poll, .step, .lvdt] := fun k => by cases k <;> simp
    exact (List.pairwise_flatMap.mp hkinds).2.forall (hmem k) (hmem l) hkl _
      (List.mem_map_of_mem (Option.mem_toList.mpr hq)) _ (List.mem_map_of_mem (Option.mem_toList.mpr hr))
  · have _ : Std.Symm fun i j : Subnet => ∀ x ∈ rewriteSpansOn s i, ∀ y ∈ rewriteSpansOn s j, Span.apart x y :=
      ⟨fun _ _ hij x hx y hy => (hij y hy x hx).symm⟩
    exact hacross.forall (mem_subnets i) (mem_subnets j) hij _ (mem_rewriteSpansOn.mpr ⟨k, q, hq, rfl⟩) _
      (mem_rewriteSpansOn.mpr ⟨l, r, hr, rfl⟩)

/-- Rewriting recorded frames keeps the first word of every recorded frame one it may begin with: the frame rewritten begins
anew, and no other shares a word with it. -/
theorem Patching.starts {T : Topology} {s t : State} (h : Patching T s t) (hapart : (rewriteSpans s).Pairwise Span.apart)
    {i : Subnet} {k : PatchKind} {q : PatchRecord} (hq : s.sub[i].recorded k = some q)
    (hpos : 0 < k.width s.cfg s.profile q.2)
    (hstart : ∃ w, s.mem.read q.1.toNat = some w ∧ k.Starts T s.cfg s.profile i q.2 w) :
    ∃ w, t.mem.read q.1.toNat = some w ∧ k.Starts T s.cfg s.profile i q.2 w := by
  have hwords := h.words
  generalize t.mem = m at hwords
  induction hwords with
  | refl => exact hstart
  | tail _ hstep ih =>
    obtain ⟨j, l, r, ws, w, hr, hlen, hhead, hw, rfl⟩ := hstep
    by_cases hsame : (i, k) = (j, l)
    · cases hsame
      obtain rfl : q = r := Option.some.inj (hq.symm.trans hr)
      refine ⟨w, ?_, hw⟩
      rw [Memory.read_writeAll, if_pos (by omega), Nat.sub_self, ← List.head?_eq_getElem?, hhead]
    · obtain ⟨v, hread, hv⟩ := ih
      have hout := recorded_apart hapart hsame hq hr
      simp only [Span.apart, PatchKind.span, ← hlen] at hout
      exact ⟨v, (Memory.read_writeAll_of_not_mem _ (by omega)).trans hread, hv⟩

theorem frameWords_pos {c : Config} {k : CmdType} {e : CmdEntry} (h : c.entry k = some e) : 0 < frameWords c k := by
  rw [frameWords_eq h]
  exact Nat.succ_pos _

/-- Every frame recorded in a layout has words, once the tables `UPDATE` consults are in order. -/
theorem width_pos_of_update {s t : State} {inp : Inputs} (hlayout : Layout s) (h : updateSchedule inp s = .ok t) {i : Subnet}
    {k : PatchKind} {q : PatchRecord} (hq : s.sub[i].recorded k = some q) : 0 < k.width s.cfg s.profile q.2 := by
  obtain ⟨T, hadm, hslots, hready, -⟩ := updateSchedule_inv h
  have hcommand : ∀ cmd ∈ updateCommandsOn s i, 0 < frameWords s.cfg cmd := by
    intro cmd hcmd
    have hmem : cmd ∈ updateCommands s := List.mem_flatMap.mpr ⟨i, mem_subnets i, hcmd⟩
    rw [← map_fst_updateCalls T inp] at hmem
    obtain ⟨call, hcall, rfl⟩ := List.mem_map.mp hmem
    obtain ⟨p, hp⟩ := hready call hcall
    obtain ⟨e, -, -, he, -⟩ := frameParts_eq_ok.mp hp
    exact frameWords_pos he
  obtain ⟨w, -, hw⟩ := hlayout.starts hadm.2.1 hq
  cases hw <;> obtain ⟨o, ho, rfl⟩ := Option.map_eq_some_iff.mp hq
  case force => exact hcommand _ (by simp [updateCommandsOn, ho, -Fin.getElem_fin])
  case poll => exact hcommand _ (by simp [updateCommandsOn, ho, -Fin.getElem_fin])
  case step hP =>
    show 0 < hpWords s.cfg s.profile
    unfold hpWords
    cases hk : hpCommand s.profile with
    | none =>
      unfold hpCommand at hk
      split at hk <;> contradiction
    | some cmd => exact hcommand cmd (by simp [updateCommandsOn, ho, hk, -Fin.getElem_fin])
  case slot d hword hd =>
    have hds : s.sub[i].hmSched ≠ [] := fun hnil => by
      rw [hnil] at hd
      exact nomatch hd
    obtain ⟨e, he⟩ := Option.ne_none_iff_exists'.mp (hslots ⟨i, by rw [ho]; rfl, hds⟩)
    exact Nat.mul_pos (List.length_pos_iff.mpr hds) (frameWords_pos he)

/-- Settles O50: a completed `UPDATE` rewrites recorded frames whole, and the layout is about their first words alone. -/
theorem updateKeepsTheLayout : Obligations.UpdateKeepsTheLayout := by
  intro s t inp hlayout h
  have heffect := exec_effect h
  have htopology := (heffect.topology_cfgError_eq nofun).1
  have hlength := heffect.length_eq nofun nofun
  rcases update_patching h with ⟨e, rfl⟩ | ⟨T, u, hadm, hu, hp, rfl⟩
  · exact hlayout
  obtain ⟨hroom, hapart, hinside, -⟩ := id hlayout
  have hspans : rewriteSpans { u with out := .done } = rewriteSpans s := hp.rewriteSpans_eq
  refine layout_of_starts (htopology.trans hadm.2.1) ?_ (hspans ▸ hapart) ?_ fun i k q hq => ?_
  · rw [hlength, heffect.cfg_eq]
    exact hroom
  · rw [hspans, hlength]
    exact hinside
  · have hold : s.sub[i].recorded k = some q := hp.recorded i k ▸ hq
    have hstarts := hp.starts hapart hold (width_pos_of_update hlayout hu hold) (hlayout.starts hadm.2.1 hold)
    rw [← hp.cfg, ← hp.profile] at hstarts
    exact hstarts

end Sys2Proof.Machine
end

section
/-! Reset, unknown codes and operations turned away (60_exceptions R306, R307; 70_reset_and_hazards R330), and the configuration
operations (47_buslist R250, R251, R255, R256, R281). -/

namespace Sys2Proof.Machine

/-! ## Turned away -/

theorem decodeCode_unknown {code : Byte} (h : code.toNat ∉ operationCodes) (rest : List Byte) :
    decodeCode code rest = .error (.unknownCode code) := by
  unfold decodeCode
  split
  case h_52 => rfl
  all_goals
    rename_i hcode
    exact absurd (by rw [hcode]; decide) h

/-- Settles O4: every code of the table is one of the 51 listed. -/
theorem unknownOperationCodeIsTurnedAway : Obligations.UnknownOperationCodeIsTurnedAway := by
  intro s code lanes rest hcode hs
  exact step_turnedAway hs (decodeCode_unknown hcode lanes) nofun

theorem genericFrame_tooLong {d : List Byte} (hd : 65535 < d.length + 2) (tail : Tail) (a f : Byte) (T : BitVec 32) (s : State) :
    genericFrame tail a f d T s = .error (.refuse .refused) :=
  if_pos hd

theorem genericFrame_outOfRange {d : List Byte} {T : BitVec 32} (hd : d.length + 2 ≤ 65535) (hT : 4094999 < T.toNat) (tail : Tail)
    (a f : Byte) (s : State) : genericFrame tail a f d T s = .error (.refuse .operandRange) := by
  rw [genericFrame, if_neg (Nat.not_lt.mpr hd), if_neg (durationFits_iff.not.mpr (Nat.not_le.mpr hT))]

/-- Settles O26: the payload is looked at first, then the duration, and both before the first word. -/
theorem genericFramesOutsideTheirDomainAreTurnedAway : Obligations.GenericFramesOutsideTheirDomainAreTurnedAway := by
  intro s a f d T
  refine ⟨fun hd => ⟨?_, ?_⟩, fun hd hT => ⟨?_, ?_⟩⟩
  · exact turnedAway_of_finish rfl (genericFrame_tooLong hd .unicast a f T s)
  · exact turnedAway_of_finish rfl (genericFrame_tooLong hd .broadcast a f T s)
  · exact turnedAway_of_finish rfl (genericFrame_outOfRange hd hT .unicast a f s)
  · exact turnedAway_of_finish rfl (genericFrame_outOfRange hd hT .broadcast a f s)

theorem finish_turnedAway {s t : State} {r : Run} {e : PortEvent} (h : finish s r = .next t) (ht : t.out = .turnedAway e) :
    t = turnAway e s := by
  rcases finish_next.mp h with ⟨u, -, rfl⟩ | ⟨e', -, rfl⟩
  · exact nomatch ht
  · cases ht
    rfl

theorem answer_turnedAway {s t : State} {r : Except Stop (Result × State)} {e : PortEvent} (h : answer s r = .next t)
    (ht : t.out = .turnedAway e) : t = turnAway e s := by
  rcases answer_next.mp h with ⟨v, u, -, rfl⟩ | ⟨e', -, rfl⟩
  · exact nomatch ht
  · cases ht
    rfl

/-- Settles O54: an operation answers through one of the two outcomes, and a wire word leaves the whole state as it is. The seven
operations without a condition always complete. -/
theorem refusedOperationChangesNothing : Obligations.RefusedOperationChangesNothing := by
  intro i s t e h ht
  show t = turnAway e s
  cases i with
  | wData | wEof | wTimestamp | wDelayUs | wDelayMs | wWaitrxUs | wIrqtrig | wSwtrig | wWaitrxMs | wRxEof =>
    cases h
    rw [turnAway, ← ht]
  | getIndex | setIndex | reset | getLength | setLength | endOfBuffer | bcastInc =>
    cases h
    exact nomatch ht
  | readRaw | readU8 | readI8 | readI16 | readI24 | readI32 | readU16 | readU32 | readSgl | readDbl | readCrc | endOfFrame
  | rrInc | lvdtStep | loadTopology | getExpected => exact answer_turnedAway h ht
  | incIndex | writeRaw | poke | writeU8 | writeI8 | writeI16 | writeI24 | writeI32 | writeU16
  | writeU32 | writeSgl | writeDbl | writeCrc | writeEof | writeTimestamp | writeDelay | writeWaitrx | writeSwtrigger
  | writeIrqtrigger | frameUnicast | frameBroadcast | frameNop | frameCmd | openSubnet | closeSubnet | setDisabled | build
  | update => exact finish_turnedAway h ht

/-! ## Reset -/

theorem resetWith_sub (c : Config) (i : Subnet) : (State.resetWith c).sub[i] = SubnetRegs.initial := by
  simp [State.resetWith]

/-- Settles O56: each register reads the value its rule states. -/
theorem resetLeavesTheStateOfItsRule : Obligations.ResetLeavesTheStateOfItsRule := by
  intro c
  refine ⟨rfl, rfl, rfl, rfl, rfl, rfl, rfl, rfl, rfl, rfl, resetWith_sub c, fun k => ⟨?_, ?_⟩, fun _ => rfl⟩
  · exact Banks.bank_fill c 0 k
  · exact Banks.bank_fill c 0 k

theorem inv_resetWith {c : Config} (h : c.legal = true) : Inv (State.resetWith c) := by
  have hmod := (Config.parametersLegal_bcastMod (Config.legal_parameters h)).1
  refine inv_iff.mpr ⟨h, ⟨rfl, nofun⟩, ⟨Nat.zero_le 4, ?_⟩, ⟨⟨fun _ => rfl, fun _ => rfl⟩, nofun⟩, countsOk_fill c,
    ⟨fun i => ?_, fun i _ => ?_, nofun⟩⟩
  · exact Nat.lt_of_lt_of_le Nat.two_pos hmod
  · rw [resetWith_sub]
    rfl
  · rw [resetWith_sub]
    rfl

/-- Settles O57: at reset the buffer is empty, every count is 0 and nothing is loaded; `Config.standard` is legal. -/
theorem invariantHoldsAfterReset : Obligations.InvariantHoldsAfterReset :=
  ⟨fun _ => inv_resetWith, inv_resetWith (by decide)⟩

/-! ## Opening and closing a subnet block -/

theorem subnetOf_eq_none {v : Byte} (h : 4 < v.toNat) : subnetOf v = none :=
  dif_neg (Nat.not_lt.mpr h)

theorem exec_openSubnet_eq (v : Byte) (s : State) :
    exec (.openSubnet v) s = finish s ((subnetOf v).elim (.error (.refuse .refused)) (openSubnet · s)) := by
  show execOpenSubnet v s = _
  unfold execOpenSubnet
  cases subnetOf v <;> rfl

/-- With no block open and a legal capacity, opening one can only overrun the buffer. -/
theorem openSubnet_error {i : Subnet} {s : State} {e : Stop} (hopen : s.openBlock = none) (hc : s.cfg.capacity ≤ 65535)
    (h : openSubnet i s = .error e) : e = .fault .bufferOverrun := by
  unfold openSubnet at h
  rw [hopen] at h
  rcases bind_eq_error.mp h with h | ⟨s1, h1, h⟩
  · exact ((emit_eq_error hc).mp h).2
  obtain ⟨-, rfl⟩ := emit_eq_ok.mp h1
  rcases bind_eq_error.mp h with h | ⟨s2, h2, h⟩
  · exact ((emit_eq_error (by exact hc)).mp h).2
  obtain ⟨-, rfl⟩ := emit_eq_ok.mp h2
  rcases bind_eq_error.mp h with h | ⟨s3, -, h⟩
  · exact ((emit_eq_error (by exact hc)).mp h).2
  · exact nomatch h

theorem openSubnet_overrun {i : Subnet} {s : State} (hopen : s.openBlock = none) (hc : s.cfg.capacity ≤ 65535)
    (h : s.cfg.capacity < s.cursor.toNat + 3) : openSubnet i s = .error (.fault .bufferOverrun) := by
  cases hr : openSubnet i s with
  | ok t =>
    obtain ⟨-, ⟨hfit, -⟩, -⟩ := openSubnet_eq_ok.mp hr
    exact absurd hfit (Nat.not_le.mpr h)
  | error e => rw [openSubnet_error hopen hc hr]

theorem openSubnet_open {s : State} (h : s.openBlock.isSome = true) (i : Subnet) :
    openSubnet i s = .error (.refuse .refused) := by
  obtain ⟨b, hb⟩ := Option.isSome_iff_exists.mp h
  unfold openSubnet
  rw [hb]

/-- Settles O36: the three words are one run at the cursor, and the second of them is the length word. -/
theorem openSubnetWritesTheBlockHead : Obligations.OpenSubnetWritesTheBlockHead := by
  intro s i v
  have hsubnet : v.toNat = i.val → v = BitVec.ofNat 8 i.val := fun hv => by rw [← hv, BitVec.ofNat_toNat, BitVec.setWidth_eq]
  refine ⟨rfl, fun hv hopen hroom => ?_, fun hv hopen hc hfull => ?_, fun h => ?_⟩
  · obtain rfl := hsubnet hv
    exact ⟨_, stores_writeAll s.mem s.cursor.toNat _, exec_openSubnet i hopen hroom.fits⟩
  · obtain rfl := hsubnet hv
    rw [exec_openSubnet_eq, subnetOf_ofNat]
    exact congrArg (finish s) (openSubnet_overrun hopen hc hfull)
  · refine turnedAway_of_finish (exec_openSubnet_eq v s) ?_
    cases hsub : subnetOf v with
    | none => rfl
    | some j =>
      refine openSubnet_open (h.resolve_right fun hv => ?_) j
      exact nomatch (subnetOf_eq_none hv).symm.trans hsub

theorem exec_closeSubnet_eq (s : State) : exec .closeSubnet s = finish s (closeSubnet s) := rfl

theorem closeSubnet_none {s : State} (h : s.openBlock = none) : closeSubnet s = .error (.refuse .refused) := by
  unfold closeSubnet
  rw [h]

theorem closeSubnet_overrun {s : State} (hopen : s.openBlock.isSome = true) (h : s.cfg.capacity ≤ s.cursor.toNat) :
    closeSubnet s = .error (.fault .bufferOverrun) := by
  obtain ⟨b, hb⟩ := Option.isSome_iff_exists.mp hopen
  unfold closeSubnet
  rw [hb]
  exact bind_eq_error.mpr (.inl (emit_overrun (Nat.lt_succ_of_le h)))

/-- The word that closing stores counts from the length word to the cursor before the IRQ trigger. -/
theorem blockLength_placed_toNat {s : State} {a : Index} {w : Word} (hfit : Fits s 1) (ha : a.toNat ≤ s.cursor.toNat) :
    (blockLength (s.placed [w]) a).toNat = s.cursor.toNat - a.toNat := by
  have hcursor : (s.placed [w]).cursor.toNat = s.cursor.toNat + 1 := placed_cursor_toNat hfit.2
  rw [blockLength_eq (by omega), hcursor, BitVec.toNat_ofNat]
  omega

/-- Settles O37: the IRQ trigger goes to the cursor first, then the length to its index. -/
theorem closeSubnetWritesTheBlockLength : Obligations.CloseSubnetWritesTheBlockLength := by
  intro s
  refine ⟨rfl, fun b hb hroom hlen => ?_, fun hopen hfull => ?_, fun hnone => ?_⟩
  · have hfit : Fits s 1 := hroom.fits
    refine ⟨_, blockLength (s.placed [s.cfg.irqtrigWord]) b.lenIndex, s.freeCount + 1, blockLength_placed_toNat hfit, fun a => ?_,
      exec_closeSubnet hb hfit hlen⟩
    rw [Memory.read_write, State.placed_mem, Memory.writeAll_cons, Memory.writeAll_nil, Memory.read_write]
  · rw [exec_closeSubnet_eq, closeSubnet_overrun hopen hfull, finish_fault]
  · exact turnedAway_of_finish (exec_closeSubnet_eq s) (closeSubnet_none hnone)

/-! ## Loading a topology -/

theorem recordValid_iff {c : Config} {d : ILCMap} : recordValid c d = true ↔ RecordOk c d := by
  unfold recordValid RecordOk
  cases htype : d.type with
  | none => simp
  | some k =>
    simp only [Bool.and_eq_true, Bool.or_eq_true, decide_eq_true_eq, and_assoc]
    cases k <;> simp [Config.bankSize]

theorem recordsApart_iff {d e : ILCMap} : recordsApart d e = true ↔
    (d.subnet = e.subnet → d.address ≠ e.address) ∧ (d.type = e.type → d.dataIndex ≠ e.dataIndex) := by
  simp [recordsApart, imp_iff_not_or]

theorem allApart_iff {t : List ILCMap} : allApart t = true ↔ t.Pairwise (fun d e => recordsApart d e = true) := by
  induction t with
  | nil => simp [allApart]
  | cons d t ih => simp [allApart, ih, List.pairwise_cons]

theorem devicesOf_eq_recordsOn (t : List ILCMap) (i : Subnet) (k : DeviceClass) : devicesOf t i k = recordsOn t i k := by
  simp [devicesOf, recordsOn]

/-- The executed check is the validity of 47_buslist R255. -/
theorem topologyValid_iff {c : Config} {t : List ILCMap} : topologyValid c t = true ↔ TopologyOk c t := by
  have hclass : ∀ k : DeviceClass, k ∈ [DeviceClass.fa, .hp, .hm] := fun k => by cases k <;> simp
  simp only [topologyValid, TopologyOk, Bool.and_eq_true, List.all_eq_true, recordValid_iff, allApart_iff, recordsApart_iff,
    List.pairwise_and_iff, decide_eq_true_eq, devicesOf_eq_recordsOn, and_assoc]
  exact and_congr_right fun _ => and_congr_right fun _ => and_congr_right fun _ =>
    ⟨fun h i k => h i (mem_subnets i) k (hclass k), fun h i _ k _ => h i k⟩

/-- A list entry that no other agrees with on what is looked for is the one found. -/
theorem find?_eq_some_of_unique {α : Type} {p : α → Bool} {l : List α} {d : α} (hd : d ∈ l) (hp : p d = true)
    (hunique : ∀ e ∈ l, p e = true → e = d) : l.find? p = some d := by
  cases hfind : l.find? p with
  | none => exact absurd hp (List.find?_eq_none.mp hfind d hd)
  | some e => rw [hunique e (List.mem_of_find?_eq_some hfind) (List.find?_some hfind)]

/-- Two records of a valid list that agree on subnet and address are the same. -/
theorem TopologyOk.eq_of_address {c : Config} {t : List ILCMap} (h : TopologyOk c t) {d e : ILCMap} (hd : d ∈ t) (he : e ∈ t)
    (hsubnet : d.subnet = e.subnet) (haddress : d.address = e.address) : d = e := by
  have _ : Std.Symm fun d e : ILCMap => d.subnet = e.subnet → d.address ≠ e.address :=
    ⟨fun _ _ hde hs ha => hde hs.symm ha.symm⟩
  by_contra hne
  exact h.2.1.forall hd he hne hsubnet haddress

theorem mem_devicesOf {t : List ILCMap} {i : Subnet} {k : DeviceClass} {d : ILCMap} :
    d ∈ devicesOf t i k ↔ d ∈ t ∧ d.subnet.toNat = i.val ∧ d.type = some k := by
  simp [devicesOf]

/-- A container's devices are those of its subnet that have a class. -/
theorem mem_container {t : List ILCMap} {i : Subnet} {d : ILCMap} :
    d ∈ (containersOf t)[i].fa ++ (containersOf t)[i].hp ++ (containersOf t)[i].hm ↔
      d ∈ t ∧ d.subnet.toNat = i.val ∧ ∃ k, d.type = some k := by
  have hbank : ∀ k, d ∈ (containersOf t)[i].devices k ↔ d ∈ t ∧ d.subnet.toNat = i.val ∧ d.type = some k := fun k => by
    rw [containersOf_devices, mem_devicesOf]
  rw [List.mem_append, List.mem_append]
  show (d ∈ (containersOf t)[i].devices .fa ∨ d ∈ (containersOf t)[i].devices .hp) ∨ d ∈ (containersOf t)[i].devices .hm ↔ _
  rw [hbank, hbank, hbank]
  constructor
  · rintro ((⟨hd, hs, hk⟩ | ⟨hd, hs, hk⟩) | ⟨hd, hs, hk⟩) <;> exact ⟨hd, hs, _, hk⟩
  · rintro ⟨hd, hs, _ | _ | _, hk⟩
    · exact .inl (.inl ⟨hd, hs, hk⟩)
    · exact .inl (.inr ⟨hd, hs, hk⟩)
    · exact .inr ⟨hd, hs, hk⟩

theorem RecordOk.type_some {c : Config} {d : ILCMap} (h : RecordOk c d) : ∃ k, d.type = some k := by
  obtain ⟨-, -, -, ⟨hk, -⟩ | ⟨hk, -⟩ | ⟨hk, -⟩⟩ := h <;> exact ⟨_, hk⟩

theorem lookup_containersOf {c : Config} {t : List ILCMap} (h : TopologyOk c t) {d : ILCMap} (hd : d ∈ t) {i : Subnet}
    (hi : d.subnet.toNat = i.val) : (containersOf t)[i].lookup d.address = some d := by
  refine find?_eq_some_of_unique (mem_container.mpr ⟨hd, hi, (h.1 d hd).type_some⟩) (beq_self_eq_true d.address) fun e he hp => ?_
  obtain ⟨het, hei, -⟩ := mem_container.mp he
  exact h.eq_of_address het hd (BitVec.eq_of_toNat_eq (hei.trans hi.symm)) (beq_iff_eq.mp hp)

/-- One record's own `Disabled` bit written to its place. -/
def withBit (b : Banks Bool) (d : ILCMap) : Banks Bool :=
  match d.type with
  | some k => b.put k d.dataIndex d.disabled
  | none => b

theorem initialDisabled_eq (c : Config) (t : List ILCMap) : initialDisabled c t = t.foldl withBit (Banks.fill c false) := rfl

/-- A bank's entry after a write of one entry. -/
theorem Banks.getElem?_bank_put {α : Type} (b : Banks α) (k l : DeviceClass) {i : Nat} (hi : i < (b.bank k).length) (j : Nat)
    (x : α) : ((b.put k i x).bank l)[j]? = if l = k ∧ j = i then some x else (b.bank l)[j]? := by
  by_cases hl : l = k
  · subst hl
    rw [Banks.bank_put_self, List.getElem?_set]
    by_cases hj : i = j
    · subst hj
      rw [if_pos rfl, if_pos hi, if_pos ⟨rfl, rfl⟩]
    · rw [if_neg hj, if_neg fun h => hj h.2.symm]
  · rw [Banks.bank_put_of_ne b i x hl, if_neg fun h => hl h.1]

theorem withBit_of_apart {b : Banks Bool} {d : ILCMap} {k : DeviceClass} {j : Nat}
    (h : d.type = some k → d.dataIndex ≠ j) : ((withBit b d).bank k)[j]? = (b.bank k)[j]? := by
  unfold withBit
  cases htype : d.type with
  | none => rfl
  | some l =>
    dsimp only
    by_cases hk : k = l
    · subst hk
      rw [Banks.bank_put_self, List.getElem?_set_ne (h htype)]
    · rw [Banks.bank_put_of_ne b _ _ hk]

theorem foldl_withBit_of_apart {t : List ILCMap} {b : Banks Bool} {k : DeviceClass} {j : Nat}
    (h : ∀ d ∈ t, d.type = some k → d.dataIndex ≠ j) : ((t.foldl withBit b).bank k)[j]? = (b.bank k)[j]? := by
  induction t generalizing b with
  | nil => rfl
  | cons d t ih =>
    obtain ⟨hd, ht⟩ := List.forall_mem_cons.mp h
    exact (ih ht).trans (withBit_of_apart hd)

theorem withBit_bank_length (b : Banks Bool) (d : ILCMap) (k : DeviceClass) :
    ((withBit b d).bank k).length = (b.bank k).length := by
  unfold withBit
  split
  · exact Banks.bank_put_length b _ k _ _
  · rfl

/-- Where no two records of a class share an index, each record's bit stands at its place. -/
theorem foldl_withBit_self {t : List ILCMap} {b : Banks Bool}
    (hapart : t.Pairwise (fun d e => d.type = e.type → d.dataIndex ≠ e.dataIndex)) {d : ILCMap} (hd : d ∈ t) {k : DeviceClass}
    (hk : d.type = some k) (hlt : d.dataIndex < (b.bank k).length) :
    ((t.foldl withBit b).bank k)[d.dataIndex]? = some d.disabled := by
  induction t generalizing b with
  | nil => exact nomatch hd
  | cons e t ih =>
    obtain ⟨he, ht⟩ := List.pairwise_cons.mp hapart
    rcases List.mem_cons.mp hd with rfl | hdt
    · refine (foldl_withBit_of_apart fun e he' hek => (he e he' (hk.trans hek.symm)).symm).trans ?_
      unfold withBit
      rw [hk]
      exact (Banks.getElem?_bank_put b k k hlt _ _).trans (if_pos ⟨rfl, rfl⟩)
    · exact ih ht hdt (by rwa [withBit_bank_length])

theorem RecordOk.dataIndex_lt {c : Config} {d : ILCMap} (h : RecordOk c d) {k : DeviceClass} (hk : d.type = some k) :
    d.dataIndex < c.bankSize k :=
  recordValid_dataIndex (recordValid_iff.mpr h) hk

theorem initialDisabled_own {c : Config} {t : List ILCMap} (h : TopologyOk c t) {d : ILCMap} (hd : d ∈ t) {k : DeviceClass}
    (hk : d.type = some k) : ((initialDisabled c t).bank k)[d.dataIndex]? = some d.disabled := by
  rw [initialDisabled_eq]
  refine foldl_withBit_self h.2.2.1 hd hk ?_
  rw [Banks.bank_fill, List.length_replicate]
  exact (h.1 d hd).dataIndex_lt hk

theorem exec_loadTopology (t : List ILCMap) (s : State) :
    exec (.loadTopology t) s = answer s
      (if topologyValid s.cfg t then .ok (.bit true, acceptTopology t s) else .ok (.bit false, rejectTopology s)) := rfl

/-- Settles O39: the executed check is `valid(t)`, and what is loaded is read off the list. -/
theorem loadTopologyAcceptsExactlyValidLists : Obligations.LoadTopologyAcceptsExactlyValidLists := by
  intro s t
  refine ⟨rfl, fun hok => ?accept, fun hbad => ?reject⟩
  case accept =>
    refine ⟨containersOf t, initialDisabled s.cfg t, fun i k => ?_, fun d hd i hi => lookup_containersOf hok hd hi,
      fun d hd k hk => initialDisabled_own hok hd hk, ?_⟩
    · rw [containersOf_devices, devicesOf_eq_recordsOn]
    · rw [exec_loadTopology, if_pos (topologyValid_iff.mpr hok)]
      rfl
  case reject =>
    rw [exec_loadTopology, if_neg (topologyValid_iff.not.mpr hbad)]
    rfl

/-! ## Disabled bits and expected responses -/

theorem hasDevice_iff {T : Topology} {k : DeviceClass} {i : Nat} :
    hasDevice T k i = true ↔ ∃ n : Subnet, ∃ d ∈ T[n].devices k, d.dataIndex = i := by
  simp only [hasDevice, List.any_eq_true, decide_eq_true_eq]
  exact ⟨fun ⟨n, _, h⟩ => ⟨n, h⟩, fun ⟨n, h⟩ => ⟨n, mem_subnets n, h⟩⟩

theorem exec_setDisabled_device {s : State} {T : Topology} {k : DeviceClass} {i : Nat} (hphase : s.phase ≠ .unconfigured)
    (hT : s.topology = some T) (h : hasDevice T k i = true) (b : Bool) :
    exec (.setDisabled k i b) s = .next { s with disabled := s.disabled.put k i b, out := .done } := by
  show execSetDisabled k i b s = _
  unfold execSetDisabled
  rw [hT]
  cases hp : s.phase with
  | unconfigured => exact absurd hp hphase
  | configured | built =>
    dsimp only
    rw [if_pos h, finish_ok]

theorem exec_setDisabled_noDevice {s : State} {T : Topology} {k : DeviceClass} {i : Nat} (hT : s.topology = some T)
    (h : ¬ hasDevice T k i = true) (b : Bool) : TurnedAway (exec (.setDisabled k i b) s) s .refused := by
  refine turnedAway_of_finish (r := _) rfl ?_
  rw [hT]
  cases s.phase with
  | unconfigured => rfl
  | configured | built => exact if_neg h

/-- Settles O40: one entry of one bank is written, and only where a device has it. -/
theorem setDisabledWritesOneBit : Obligations.SetDisabledWritesOneBit := by
  intro s T k i b
  refine ⟨rfl, fun hphase hT hi hdevice => ⟨s.disabled.put k i b, fun l j => ?_, ?_⟩, fun hT hnone => ?_⟩
  · exact Banks.getElem?_bank_put s.disabled k l hi j b
  · exact exec_setDisabled_device hphase hT (hasDevice_iff.mpr hdevice) b
  · exact exec_setDisabled_noDevice hT (hasDevice_iff.not.mpr hnone) b

theorem exec_getExpected (k : DeviceClass) (i : Nat) (s : State) :
    exec (.getExpected k i) s = answer s
      (if s.phase ≠ .unconfigured ∧ i < s.cfg.bankSize k then .ok (.unsigned (s.expOf k i).toNat, s)
       else .error (.refuse .refused)) := rfl

/-- Settles O41: the entry is read, and nothing beside it. -/
theorem getExpectedReturnsTheEntry : Obligations.GetExpectedReturnsTheEntry := by
  intro s k i
  refine ⟨rfl, fun n hphase hi hn => ?_, fun hi => ?_⟩
  · have hentry : s.expOf k i = n := by rw [State.expOf, hn, Option.getD_some]
    rw [exec_getExpected, if_pos ⟨hphase, hi⟩, hentry, answer_ok]
  · show _ = Host.Outcome.next (turnAway .refused s)
    rw [exec_getExpected, if_neg fun h => Nat.not_le.mpr h.2 hi, answer_refuse]

end Sys2Proof.Machine
end

section
/-! `UPDATE` run on a ready schedule (47_buslist R270 to R278): each rewrite of a subnet stores its patch, so the whole cycle stores
the patches of Machine/Image.lean; a polled subnet without an enabled force actuator stops it (R275). -/

namespace Sys2Proof.Machine

/-! ## Patches stored -/

theorem applyPatches_append (m : Memory) (ps qs : List Patch) :
    applyPatches m (ps ++ qs) = applyPatches (applyPatches m ps) qs :=
  List.foldl_append

/-- The state once patches are stored, the registers of the subnets are `R` and the expected counts `e`. -/
def State.cycled (s : State) (ps : List Patch) (R : Vector SubnetRegs 5) (e : Banks (BitVec 3)) : State :=
  { s with mem := applyPatches s.mem ps, cursor := cursorAfter s ps, sub := R, exp := e }

@[simp] theorem State.cycled_sub (s : State) (ps : List Patch) (R : Vector SubnetRegs 5) (e : Banks (BitVec 3)) :
    (s.cycled ps R e).sub = R := rfl

theorem State.cycled_cycled (s : State) (ps qs : List Patch) (R R' : Vector SubnetRegs 5) (e e' : Banks (BitVec 3)) :
    (s.cycled ps R e).cycled qs R' e' = s.cycled (ps ++ qs) R' e' := by
  have hcursor : cursorAfter (s.cycled ps R e) qs = cursorAfter s (ps ++ qs) := by
    unfold cursorAfter
    rw [List.getLast?_append]
    cases qs.getLast? <;> rfl
  unfold State.cycled at hcursor ⊢
  rw [hcursor, applyPatches_append]

/-- Storing words at an offset is storing a patch there. -/
theorem seek_placed (s : State) (o : Index) (ws : List Word) :
    (seek o s).placed ws = s.cycled (patchAt (some o) ws) s.sub s.exp := rfl

theorem placed_nil (s : State) : s.placed [] = s := by
  simp [State.placed]

/-! ## The patches of one subnet, in a cycle under way -/

/-- The force-demand frame, with the counter as it stands (47_buslist R272). -/
def forcePatch (T : Topology) (inp : Inputs) (s : State) (i : Subnet) : List Patch :=
  patchAt s.sub[i].fdOffset (scheduledImage s.cfg .broadcastForceDemand addrBcastFA
    (forceArgs s.freeCount i s.bcast inp T[i].fa))

/-- The round-robin frame (47_buslist R274). -/
def pollPatch (T : Topology) (s : State) (i : Subnet) : List Patch :=
  patchAt s.sub[i].pollOffset ((nextTarget s T i).toList.flatMap (statusImage s.cfg .reportServerStatus))

/-- The step or freeze frame, with the counter as it stands (47_buslist R276). -/
def stepPatch (inp : Inputs) (s : State) (i : Subnet) : List Patch :=
  patchAt s.sub[i].stepOffset (hpBroadcastImage s.cfg s.profile s.bcast inp)

/-- The LVDT block (47_buslist R277). -/
def lvdtPatch (s : State) (i : Subnet) : List Patch :=
  patchAt s.sub[i].lvdtOffset (s.sub[i].hmSched.flatMap (slotImage s))

/-- The four, in the order of 47_buslist R270. -/
def duePatches (T : Topology) (inp : Inputs) (s : State) (i : Subnet) : List Patch :=
  forcePatch T inp s i ++ pollPatch T s i ++ stepPatch inp s i ++ lvdtPatch s i

/-- Once the counter has moved, the patches due are those of Machine/Image.lean. -/
theorem duePatches_updateInit (T : Topology) (inp : Inputs) (s : State) :
    duePatches T inp (updateInit s) = patchesOn T inp s := rfl

/-! ## Rewrites that can be made -/

/-- What `UPDATE` needs of a subnet for its rewrites, the round robin apart: commands ready, a length for its slots, frames inside
the buffer. -/
structure Rewritable (inp : Inputs) (s : State) (i : Subnet) : Prop where
  legal : s.cfg.parametersLegal = true
  steps : inp.steps.length = s.cfg.nHP
  commands : ∀ k ∈ updateCommandsOn s i, CommandReady s.cfg k
  slots : s.sub[i].lvdtOffset.isSome = true → s.sub[i].hmSched ≠ [] → s.cfg.entry .reportLvdt ≠ none
  spans : ∀ p ∈ rewriteSpansOn s i, p.2 ≤ s.cfg.capacity

/-- A subnet with a round-robin frame has an enabled force actuator (47_buslist R275). -/
def Pollable (T : Topology) (s : State) (i : Subnet) : Prop :=
  s.sub[i].pollOffset.isSome = true → s.enabled T .fa i ≠ []

theorem fits_seek {s : State} (hl : s.cfg.parametersLegal = true) {o : Index} {n : Nat} (h : o.toNat + n ≤ s.cfg.capacity) :
    Fits (seek o s) n :=
  ⟨h, h.trans (Config.parametersLegal_capacity hl)⟩

/-- A rewrite at a recorded offset whose frame can be composed and lies inside the buffer. -/
theorem scheduled_seek {s : State} (hl : s.cfg.parametersLegal = true) {o : Index} {k : CmdType} {a : Byte} {env : FieldArgs}
    (hp : ∃ p, frameParts s.cfg k (bindNamed env) = .ok p) (hfit : o.toNat + frameWords s.cfg k ≤ s.cfg.capacity) :
    scheduled k a env (seek o s) = .ok (s.cycled (patchAt (some o) (scheduledImage s.cfg k a env)) s.sub s.exp) := by
  obtain ⟨p, hp⟩ := hp
  rw [← seek_placed]
  exact (scheduled_eq_ok (s := seek o s) hl).mpr ⟨⟨p, hp⟩, fits_seek hl (scheduledImage_length hp ▸ hfit), rfl⟩

theorem updateForce_ok {T : Topology} {inp : Inputs} {s : State} {i : Subnet} (h : Rewritable inp s i) :
    updateForce T inp i s = .ok (s.cycled (forcePatch T inp s i) s.sub s.exp) := by
  unfold updateForce forcePatch
  cases hoff : s.sub[i].fdOffset with
  | none => rfl
  | some o =>
    have hready : CommandReady s.cfg .broadcastForceDemand :=
      h.commands _ (by simp [updateCommandsOn, hoff, -Fin.getElem_fin])
    have hspan : (o.toNat, o.toNat + frameWords s.cfg .broadcastForceDemand) ∈ rewriteSpansOn s i := by
      simp [rewriteSpansOn, spanAt, hoff, -Fin.getElem_fin]
    exact scheduled_seek h.legal (frameParts_ready (fillable_force s.cfg _ i _ inp _) hready) (h.spans _ hspan)

theorem mem_hpCommand {P : Profile} {b : BitVec 8} {inp : Inputs} {k : Call} (h : hpCall P b inp = some k) :
    hpCommand P = some k.1 := by
  unfold hpCall at h
  unfold hpCommand
  cases hP : P.hpBroadcast <;> rw [hP] at h <;> cases h <;> rfl

theorem updateStep_ok {inp : Inputs} {s : State} {i : Subnet} (h : Rewritable inp s i) :
    updateStep s.profile inp i s = .ok (s.cycled (stepPatch inp s i) s.sub s.exp) := by
  unfold updateStep stepPatch
  cases hoff : s.sub[i].stepOffset with
  | none => rfl
  | some o =>
    unfold hpFrame hpBroadcastImage
    dsimp only [seek_bcast]
    cases hk : hpCall s.profile s.bcast inp with
    | none =>
      rw [← seek_placed, placed_nil]
    | some k =>
      have hcommand : hpCommand s.profile = some k.1 := mem_hpCommand hk
      have hready : CommandReady s.cfg k.1 :=
        h.commands _ (by simp [updateCommandsOn, hoff, hcommand, -Fin.getElem_fin])
      have hspan : (o.toNat, o.toNat + hpWords s.cfg s.profile) ∈ rewriteSpansOn s i := by
        simp [rewriteSpansOn, spanAt, hoff, -Fin.getElem_fin]
      have hfit := h.spans _ hspan
      rw [hpWords, hcommand] at hfit
      exact scheduled_seek h.legal (frameParts_ready (fillable_hpCall h.steps hk) hready) hfit

/-! ## The round-robin rewrite -/

/-- The cursor of a subnet with an enabled force actuator names one of them, at its 8 bits too. -/
theorem nextTarget_isSome {T : Topology} {s : State} {i : Subnet} (h : s.enabled T .fa i ≠ []) :
    (nextTarget s T i).isSome = true := by
  have hlt : rrNext s.sub[i].rr.toNat (s.enabled T .fa i).length < (s.enabled T .fa i).length :=
    rrNext_lt (List.length_pos_iff.mpr h)
  have hle : (nextCursor s T i).toNat ≤ rrNext s.sub[i].rr.toNat (s.enabled T .fa i).length := by
    rw [nextCursor, BitVec.toNat_ofNat]
    exact Nat.mod_le _ _
  simp only [nextTarget, List.getElem?_eq_getElem (hle.trans_lt hlt), Option.isSome_some]

/-- What the round-robin rewrite does where a frame stands: seek, restore the previous target's count, compose. -/
theorem updatePoll_some {T : Topology} {s : State} {i : Subnet} {o : Index} {d : ILCMap} (hoff : s.sub[i].pollOffset = some o)
    (hne : s.enabled T .fa i ≠ []) (hd : nextTarget s T i = some d) :
    updatePoll T i s
      = pollFrame i d (restorePolled i (seek o (s.modSub i (fun r => { r with rr := nextCursor s T i })))) := by
  have hget : (s.enabled T .fa i)[((s.modSub i (fun r => { r with rr := nextCursor s T i })).sub[i]).rr.toNat]? = some d := by
    rw [State.modSub_sub_self]
    exact hd
  unfold updatePoll
  rw [hoff]
  dsimp only
  rw [rrInc_of_pos _ (List.length_pos_iff.mpr hne)]
  simp only [bind, Except.bind]
  split
  · rename_i d' hd'
    obtain rfl : d' = d := Option.some.inj (hd'.symm.trans hget)
    rfl
  · rename_i hnone
    exact nomatch hnone.symm.trans hget

/-- Restoring the previous target's count touches the expected counts alone. -/
theorem restorePolled_eq (i : Subnet) (s : State) : ∃ e, restorePolled i s = { s with exp := e } := by
  unfold restorePolled
  split
  · exact ⟨_, rfl⟩
  · exact ⟨s.exp, rfl⟩

theorem updatePoll_ok {T : Topology} {inp : Inputs} {s : State} {i : Subnet} (h : Rewritable inp s i) (hpoll : Pollable T s i) :
    ∃ e, updatePoll T i s = .ok (s.cycled (pollPatch T s i) (s.sub.set i (updatedRegs T s i)) e) := by
  unfold pollPatch
  cases hoff : s.sub[i].pollOffset with
  | none =>
    have hregs : s.sub.set i (updatedRegs T s i) = s.sub := by
      have hself : updatedRegs T s i = s.sub[i] := if_neg (by rw [hoff]; exact nofun)
      rw [hself]
      exact Vector.set_getElem_self i.isLt
    refine ⟨s.exp, ?_⟩
    unfold updatePoll
    rw [hoff, hregs]
    rfl
  | some o =>
    have hne : s.enabled T .fa i ≠ [] := hpoll (by rw [hoff]; rfl)
    obtain ⟨d, hd⟩ := Option.isSome_iff_exists.mp (nextTarget_isSome hne)
    have hready : CommandReady s.cfg .reportServerStatus :=
      h.commands _ (by simp [updateCommandsOn, hoff, -Fin.getElem_fin])
    have hspan := h.spans _ (mem_rewriteSpansOn.mpr ⟨.poll, (o, []), by rw [SubnetRegs.recorded, hoff]; rfl, rfl⟩)
    obtain ⟨p, hp⟩ := frameParts_ready (k := (.reportServerStatus, noArgs)) (fillable_status s.cfg rfl) hready
    obtain ⟨e, hrestored⟩ := restorePolled_eq i (seek o (s.modSub i (fun r => { r with rr := nextCursor s T i })))
    have hlen : (statusImage s.cfg .reportServerStatus d).length = frameWords s.cfg .reportServerStatus :=
      scheduledImage_length hp
    have hfit : Fits (seek o s) (statusImage s.cfg .reportServerStatus d).length := fits_seek h.legal (hlen ▸ hspan)
    rw [updatePoll_some hoff hne hd, hrestored, hd]
    have hregs : (s.sub.set i { s.sub[i] with rr := nextCursor s T i }).set i
          { s.sub[i] with rr := nextCursor s T i, pollData := some d.dataIndex }
        = s.sub.set i (updatedRegs T s i) := by
      have hself : updatedRegs T s i = { s.sub[i] with rr := nextCursor s T i, pollData := some d.dataIndex } := by
        rw [updatedRegs, if_pos (by rw [hoff]; rfl), hd]
        rfl
      rw [hself, Vector.set_set]
    obtain ⟨v, hv⟩ : ∃ v, v = { seek o (s.modSub i fun r => { r with rr := nextCursor s T i }) with exp := e } := ⟨_, rfl⟩
    have hcfg : v.cfg = s.cfg := by rw [hv]; rfl
    have hplaced : ((v.placed (statusImage s.cfg .reportServerStatus d)).modSub i fun r => { r with pollData := some d.dataIndex })
        = s.cycled (patchAt (some o) (statusImage s.cfg .reportServerStatus d)) (s.sub.set i (updatedRegs T s i)) v.exp := by
      rw [State.cycled, ← hregs, hv]
      simp [State.modSub, State.placed, seek, patchAt, applyPatches, cursorAfter]
    have hframe := (pollFrame_eq_ok (i := i) (d := d) (s := v) (hcfg ▸ h.legal)).mpr
      ⟨⟨p, hcfg ▸ hp⟩, by rw [hcfg, hv]; exact hfit, rfl⟩
    rw [← hv, hframe, hcfg, hplaced, Option.toList_some, List.flatMap_singleton]
    exact ⟨v.exp.put .fa d.dataIndex (v.baseOf .fa d.dataIndex + 1), rfl⟩

/-! ## The LVDT block -/

/-- An LVDT slot can be written: the command has a length, and where the slot is real its frame can be composed. -/
structure SlotReady (s : State) : Prop where
  legal : s.cfg.parametersLegal = true
  entry : s.cfg.entry .reportLvdt ≠ none
  parts : s.lvdtClock = 0 → ∃ p, frameParts s.cfg .reportLvdt (bindNamed noArgs) = .ok p

theorem SlotReady.slotImage_length {s : State} (h : SlotReady s) (d : ILCMap) :
    (slotImage s d).length = frameWords s.cfg .reportLvdt := by
  unfold slotImage
  split
  · rename_i hclock
    obtain ⟨p, hp⟩ := h.parts hclock
    exact scheduledImage_length hp
  · exact List.length_replicate

theorem SlotReady.lvdtSlot_ok {s : State} (h : SlotReady s) {d : ILCMap}
    (hfit : s.cursor.toNat + frameWords s.cfg .reportLvdt ≤ s.cfg.capacity) :
    ∃ e, lvdtSlot d s = .ok { s.placed (slotImage s d) with exp := e } := by
  have hfits : Fits s (slotImage s d).length := by
    rw [h.slotImage_length]
    exact ⟨hfit, hfit.trans (Config.parametersLegal_capacity h.legal)⟩
  by_cases hclock : s.lvdtClock = 0
  · exact ⟨_, (lvdtSlot_eq_ok h.legal).mpr (.inl ⟨hclock, h.parts hclock, hfits, rfl⟩)⟩
  · exact ⟨_, (lvdtSlot_eq_ok h.legal).mpr (.inr ⟨hclock, Option.ne_none_iff_exists'.mp h.entry, hfits, rfl⟩)⟩

theorem lvdtSlots_ok {ds : List ILCMap} {s : State} (h : ds ≠ [] → SlotReady s)
    (hfit : s.cursor.toNat + ds.length * frameWords s.cfg .reportLvdt ≤ s.cfg.capacity) :
    ∃ e, runAll lvdtSlot ds s = .ok { s.placed (ds.flatMap (slotImage s)) with exp := e } := by
  induction ds generalizing s with
  | nil => exact ⟨s.exp, congrArg Except.ok (placed_nil s).symm⟩
  | cons d ds ih =>
    have hready := h (List.cons_ne_nil d ds)
    have hcapacity := Config.parametersLegal_capacity hready.legal
    rw [List.length_cons, Nat.succ_mul] at hfit
    obtain ⟨e, he⟩ := hready.lvdtSlot_ok (d := d) (by omega)
    have hlast : s.cursor.toNat + (slotImage s d).length ≤ 65535 := by
      rw [hready.slotImage_length]
      omega
    have hcursor := placed_cursor_toNat hlast
    rw [hready.slotImage_length] at hcursor
    obtain ⟨e', he'⟩ := ih (s := { s.placed (slotImage s d) with exp := e }) (fun _ => ⟨hready.legal, hready.entry, hready.parts⟩)
      (by show (s.placed (slotImage s d)).cursor.toNat + _ * frameWords s.cfg _ ≤ s.cfg.capacity; omega)
    refine ⟨e', ?_⟩
    rw [runAll_cons, he, List.flatMap_cons, ← placed_placed hlast]
    exact he'

theorem updateLvdt_ok {inp : Inputs} {s : State} {i : Subnet} (h : Rewritable inp s i) :
    ∃ e, updateLvdt i s = .ok (s.cycled (lvdtPatch s i) s.sub e) := by
  unfold updateLvdt lvdtPatch
  cases hoff : s.sub[i].lvdtOffset with
  | none => exact ⟨s.exp, rfl⟩
  | some o =>
    have hspan := h.spans _ (mem_rewriteSpansOn.mpr ⟨.lvdt, (o, s.sub[i].hmSched), by rw [SubnetRegs.recorded, hoff]; rfl, rfl⟩)
    have hready : s.sub[i].hmSched ≠ [] → SlotReady (seek o s) := fun hne => by
      refine ⟨h.legal, h.slots (by rw [hoff]; rfl) hne, fun hclock => ?_⟩
      refine frameParts_ready (k := (.reportLvdt, noArgs)) (fillable_status s.cfg rfl) (h.commands _ ?_)
      simp [updateCommandsOn, hoff, hne, show s.lvdtClock = 0 from hclock, -Fin.getElem_fin]
    exact lvdtSlots_ok hready hspan

/-! ## One subnet, and the whole cycle -/

theorem updatedRegs_places (T : Topology) (s : State) (i : Subnet) : (updatedRegs T s i).places = s.sub[i].places := by
  unfold updatedRegs
  split <;> rfl

theorem updateCommandsOn_congr {s t : State} {i : Subnet} (hcfg : t.cfg = s.cfg) (hvariant : t.variant = s.variant)
    (hclock : t.lvdtClock = s.lvdtClock) (hplaces : t.sub[i].places = s.sub[i].places) :
    updateCommandsOn t i = updateCommandsOn s i := by
  simp only [SubnetRegs.places, Prod.mk.injEq] at hplaces
  obtain ⟨⟨hfd, hstep, hpoll, hlvdt⟩, hds⟩ := hplaces
  simp only [updateCommandsOn, hfd, hstep, hpoll, hlvdt, hds, hcfg, hvariant, hclock]

/-- What a subnet needs for its rewrites is about registers that the round robin leaves alone. -/
theorem Rewritable.congr {inp : Inputs} {s t : State} {i : Subnet} (h : Rewritable inp s i) (hcfg : t.cfg = s.cfg)
    (hvariant : t.variant = s.variant) (hclock : t.lvdtClock = s.lvdtClock) (hplaces : t.sub[i].places = s.sub[i].places) :
    Rewritable inp t i := by
  have hprofile : t.profile = s.profile := by rw [State.profile, hcfg, hvariant]
  have hspans : rewriteSpansOn t i = rewriteSpansOn s i := by
    rw [rewriteSpansOn_eq, rewriteSpansOn_eq, hcfg, hprofile]
    simp only [SubnetRegs.recorded_congr hplaces]
  have hcommands := updateCommandsOn_congr hcfg hvariant hclock hplaces
  simp only [SubnetRegs.places, Prod.mk.injEq] at hplaces
  obtain ⟨⟨-, -, -, hlvdt⟩, hds⟩ := hplaces
  constructor
  · rw [hcfg]; exact h.legal
  · rw [hcfg]; exact h.steps
  · rw [hcommands, hcfg]; exact h.commands
  · rw [hlvdt, hds, hcfg]; exact h.slots
  · rw [hspans, hcfg]; exact h.spans

theorem stepPatch_cycled {inp : Inputs} {s : State} {i : Subnet} {ps : List Patch} {R : Vector SubnetRegs 5}
    {e : Banks (BitVec 3)} (h : R[i].places = s.sub[i].places) : stepPatch inp (s.cycled ps R e) i = stepPatch inp s i := by
  simp only [SubnetRegs.places, Prod.mk.injEq] at h
  obtain ⟨⟨-, hstep, -, -⟩, -⟩ := h
  show patchAt R[i].stepOffset _ = patchAt s.sub[i].stepOffset _
  rw [hstep]
  rfl

theorem lvdtPatch_cycled {s : State} {i : Subnet} {ps : List Patch} {R : Vector SubnetRegs 5} {e : Banks (BitVec 3)}
    (h : R[i].places = s.sub[i].places) : lvdtPatch (s.cycled ps R e) i = lvdtPatch s i := by
  simp only [SubnetRegs.places, Prod.mk.injEq] at h
  obtain ⟨⟨-, -, -, hlvdt⟩, hds⟩ := h
  show patchAt R[i].lvdtOffset (R[i].hmSched.flatMap _) = patchAt s.sub[i].lvdtOffset (s.sub[i].hmSched.flatMap _)
  rw [hlvdt, hds]
  rfl

theorem sub_set_places (T : Topology) (s : State) (i : Subnet) :
    (s.sub.set i (updatedRegs T s i))[i].places = s.sub[i].places := by
  rw [← updatedRegs_places T s i]
  simp

theorem updateSubnet_ok {T : Topology} {inp : Inputs} {s : State} {i : Subnet} (h : Rewritable inp s i) (hpoll : Pollable T s i) :
    ∃ e, updateSubnet T s.profile inp i s = .ok (s.cycled (duePatches T inp s i) (s.sub.set i (updatedRegs T s i)) e) := by
  have hregs := sub_set_places T s i
  obtain ⟨e, he⟩ := updatePoll_ok (h.congr (t := s.cycled (forcePatch T inp s i) s.sub s.exp) rfl rfl rfl rfl) (by exact hpoll)
  rw [State.cycled_cycled] at he
  have h2 : Rewritable inp (s.cycled (forcePatch T inp s i ++ pollPatch T s i) (s.sub.set i (updatedRegs T s i)) e) i :=
    h.congr rfl rfl rfl hregs
  have hstep := updateStep_ok h2
  rw [State.cycled_cycled, stepPatch_cycled hregs] at hstep
  obtain ⟨e', hlvdt⟩ := updateLvdt_ok (h.congr (t := s.cycled (forcePatch T inp s i ++ pollPatch T s i ++ stepPatch inp s i)
    (s.sub.set i (updatedRegs T s i)) e) rfl rfl rfl hregs)
  rw [State.cycled_cycled, lvdtPatch_cycled hregs] at hlvdt
  exact ⟨e', bind_eq_ok.mpr ⟨_, updateForce_ok h, bind_eq_ok.mpr ⟨_, he, bind_eq_ok.mpr ⟨_, hstep, hlvdt⟩⟩⟩⟩

/-- With no enabled force actuator left, the round-robin rewrite has a count of zero (47_buslist R275). -/
theorem updateSubnet_zeroCount {T : Topology} {inp : Inputs} {s : State} {i : Subnet} (h : Rewritable inp s i)
    (hpoll : ¬ Pollable T s i) : updateSubnet T s.profile inp i s = .error (.fault .zeroCount) := by
  rw [Pollable, Classical.not_imp, not_ne_iff] at hpoll
  obtain ⟨hsome, hnone⟩ := hpoll
  obtain ⟨o, hoff⟩ := Option.isSome_iff_exists.mp hsome
  have hzero : updatePoll T i (s.cycled (forcePatch T inp s i) s.sub s.exp) = .error (.fault .zeroCount) := by
    unfold updatePoll
    rw [State.cycled_sub, hoff]
    refine bind_eq_error.mpr (.inl ?_)
    show rrInc s.sub[i].rr.toNat (s.enabled T .fa i).length = _
    rw [hnone]
    rfl
  exact bind_eq_error.mpr (.inr ⟨_, updateForce_ok h, bind_eq_error.mpr (.inl hzero)⟩)

/-- The registers once the subnets `xs` have been rewritten. -/
def cycledRegs (T : Topology) (s : State) (xs : List Subnet) : Vector SubnetRegs 5 :=
  Vector.ofFn fun i => if i ∈ xs then updatedRegs T s i else s.sub[i]

theorem getElem_cycledRegs (T : Topology) (s : State) (xs : List Subnet) (i : Subnet) :
    (cycledRegs T s xs)[i] = if i ∈ xs then updatedRegs T s i else s.sub[i] := by
  simp [cycledRegs]

/-- The registers of the five subnets, one by one. -/
theorem subnetRegs_ext {R R' : Vector SubnetRegs 5} (h : ∀ i : Subnet, R[i] = R'[i]) : R = R' :=
  Vector.ext fun k hk => h ⟨k, hk⟩

theorem cycledRegs_nil (T : Topology) (s : State) : cycledRegs T s [] = s.sub :=
  subnetRegs_ext fun i => by rw [getElem_cycledRegs, if_neg List.not_mem_nil]

theorem getElem_sub_set_of_ne (s : State) {i j : Subnet} (r : SubnetRegs) (h : j ≠ i) : (s.sub.set i r)[j] = s.sub[j] :=
  State.modSub_sub_of_ne s (fun _ => r) h

/-- What a cycle writes of a subnet turns on that subnet's registers alone. -/
theorem duePatches_cycled {T : Topology} {inp : Inputs} {s : State} {ps : List Patch} {R : Vector SubnetRegs 5}
    {e : Banks (BitVec 3)} {j : Subnet} (h : R[j] = s.sub[j]) :
    duePatches T inp (s.cycled ps R e) j = duePatches T inp s j := by
  simp only [duePatches, forcePatch, pollPatch, stepPatch, lvdtPatch, nextTarget, nextCursor, State.cycled_sub, h]
  rfl

theorem updatedRegs_cycled {T : Topology} {s : State} {ps : List Patch} {R : Vector SubnetRegs 5}
    {e : Banks (BitVec 3)} {j : Subnet} (h : R[j] = s.sub[j]) : updatedRegs T (s.cycled ps R e) j = updatedRegs T s j := by
  simp only [updatedRegs, nextTarget, nextCursor, State.cycled_sub, h]
  rfl

/-- The registers after a first subnet and then others are those after all of them. -/
theorem cycledRegs_cons {T : Topology} {s : State} {i : Subnet} {xs : List Subnet} (hi : i ∉ xs) (ps : List Patch)
    (e : Banks (BitVec 3)) :
    cycledRegs T (s.cycled ps (s.sub.set i (updatedRegs T s i)) e) xs = cycledRegs T s (i :: xs) := by
  refine subnetRegs_ext fun j => ?_
  rw [getElem_cycledRegs, getElem_cycledRegs]
  by_cases hj : j = i
  · subst hj
    rw [if_neg hi, if_pos List.mem_cons_self]
    simp
  · have hkeep : (s.sub.set i (updatedRegs T s i))[j] = s.sub[j] := getElem_sub_set_of_ne s _ hj
    rw [updatedRegs_cycled hkeep, State.cycled_sub, hkeep]
    simp [hj]

/-- The rewrites of the subnets `xs`, each with an enabled force actuator where it is polled, store their patches. -/
theorem updateSubnets_ok {T : Topology} {inp : Inputs} {P : Profile} {xs : List Subnet} (hnodup : xs.Nodup) {s : State}
    (hP : s.profile = P) (h : ∀ i ∈ xs, Rewritable inp s i ∧ Pollable T s i) :
    ∃ e, runAll (updateSubnet T P inp) xs s = .ok (s.cycled (xs.flatMap (duePatches T inp s)) (cycledRegs T s xs) e) := by
  induction xs generalizing s with
  | nil => exact ⟨s.exp, by rw [cycledRegs_nil]; rfl⟩
  | cons i xs ih =>
    obtain ⟨hi, hxs⟩ := List.nodup_cons.mp hnodup
    obtain ⟨hready, hpoll⟩ := h i List.mem_cons_self
    obtain ⟨e, he⟩ := updateSubnet_ok hready hpoll
    set t := s.cycled (duePatches T inp s i) (s.sub.set i (updatedRegs T s i)) e with ht
    have hkeep : ∀ j ∈ xs, t.sub[j] = s.sub[j] := fun j hj =>
      getElem_sub_set_of_ne s _ fun hji => hi (hji ▸ hj)
    obtain ⟨e', he'⟩ := ih hxs (s := t) hP fun j hj => by
      obtain ⟨hready', hpoll'⟩ := h j (List.mem_cons_of_mem i hj)
      refine ⟨hready'.congr rfl rfl rfl (by rw [hkeep j hj]), ?_⟩
      rw [Pollable, hkeep j hj]
      exact hpoll'
    have hpatches : xs.flatMap (duePatches T inp t) = xs.flatMap (duePatches T inp s) :=
      List.flatMap_congr fun j hj => duePatches_cycled (hkeep j hj)
    refine ⟨e', ?_⟩
    rw [hpatches, ht, State.cycled_cycled, cycledRegs_cons hi] at he'
    rw [runAll_cons, List.flatMap_cons, ← hP, he]
    rw [← hP] at he'
    exact he'

/-- Once a subnet of `xs` is polled without an enabled force actuator, the rewrites stop at the first such subnet. -/
theorem updateSubnets_zeroCount {T : Topology} {inp : Inputs} {P : Profile} {xs : List Subnet} (hnodup : xs.Nodup) {s : State}
    (hP : s.profile = P) (h : ∀ i ∈ xs, Rewritable inp s i) (hbad : ∃ i ∈ xs, ¬ Pollable T s i) :
    runAll (updateSubnet T P inp) xs s = .error (.fault .zeroCount) := by
  induction xs generalizing s with
  | nil =>
    obtain ⟨i, hi, -⟩ := hbad
    exact nomatch hi
  | cons i xs ih =>
    obtain ⟨hi, hxs⟩ := List.nodup_cons.mp hnodup
    by_cases hpoll : Pollable T s i
    swap
    · exact bind_eq_error.mpr (.inl (hP ▸ updateSubnet_zeroCount (h i List.mem_cons_self) hpoll))
    obtain ⟨e, he⟩ := updateSubnet_ok (h i List.mem_cons_self) hpoll
    set t := s.cycled (duePatches T inp s i) (s.sub.set i (updatedRegs T s i)) e
    have hkeep : ∀ j ∈ xs, t.sub[j] = s.sub[j] := fun j hj =>
      getElem_sub_set_of_ne s _ fun hji => hi (hji ▸ hj)
    refine bind_eq_error.mpr (.inr ⟨t, hP ▸ he, ih hxs (s := t) hP (fun j hj => ?_) ?_⟩)
    · exact (h j (List.mem_cons_of_mem i hj)).congr rfl rfl rfl (congrArg SubnetRegs.places (hkeep j hj))
    · obtain ⟨j, hj, hbadj⟩ := hbad
      have hjx : j ∈ xs := (List.mem_cons.mp hj).resolve_left fun hji => hbadj (hji ▸ hpoll)
      refine ⟨j, hjx, fun hp => hbadj fun hsome => hp ?_⟩
      rw [hkeep j hjx]
      exact hsome

/-! ## `UPDATE` -/

theorem UpdateReady.rewritable {s : State} {T : Topology} {inp : Inputs} (h : UpdateReady s T inp) (i : Subnet) :
    Rewritable inp (updateInit s) i := by
  obtain ⟨hlegal, ⟨-, -, -, hsteps⟩, hspans, hcommands, hslots⟩ := h
  exact ⟨hlegal, hsteps, fun k hk => hcommands k (List.mem_flatMap.mpr ⟨i, mem_subnets i, hk⟩),
    fun hoff hds => hslots ⟨i, hoff, hds⟩, fun p hp => hspans p (List.mem_flatMap.mpr ⟨i, mem_subnets i, hp⟩)⟩

theorem updateSchedule_ready {s : State} {T : Topology} {inp : Inputs} (h : UpdateReady s T inp) :
    updateSchedule inp s = updateRun T inp s := by
  obtain ⟨-, hadm, -, hcommands, hslots⟩ := h
  rw [updateSchedule_admitted hadm hslots, callsVerdict_ready (fillable_updateCalls hadm.2.2)
    (by rwa [map_fst_updateCalls])]
  rfl

theorem nodup_subnets : subnets.Nodup := by decide

theorem cycledRegs_subnets (T : Topology) (s : State) : cycledRegs T s subnets = Vector.ofFn (updatedRegs T s) := by
  simp [cycledRegs, mem_subnets]

/-- The countdown at its 3 bits (46_roundrobin R234). -/
theorem lvdtNext_bits (c : BitVec 3) : BitVec.ofNat 3 (lvdtNext c.toNat) = if c = 0 then 4 else c - 1 := by
  revert c
  decide

/-- Settles O47: the counter moves, the five subnets store their patches, the countdown moves. -/
theorem updateAppliesExactlyItsPatches : Obligations.UpdateAppliesExactlyItsPatches := by
  intro s T inp hready hpolls
  obtain ⟨e, he⟩ := updateSubnets_ok (T := T) (inp := inp) nodup_subnets (s := updateInit s) rfl
    fun i _ => ⟨hready.rewritable i, hpolls i⟩
  have hrun : updateRun T inp s
      = .ok (updateFinish ((updateInit s).cycled (patches T inp s) (Vector.ofFn (updatedRegs T s)) e)) := by
    have hpatches : subnets.flatMap (duePatches T inp (updateInit s)) = patches T inp s :=
      congrArg subnets.flatMap (duePatches_updateInit T inp s)
    refine bind_eq_ok.mpr ⟨_, he, ?_⟩
    rw [cycledRegs_subnets, hpatches]
    rfl
  refine ⟨_, e, s.freeCount + 1, fun _ => rfl, ?_⟩
  rw [exec_update, updateSchedule_ready hready, hrun, ← lvdtNext_bits]
  rfl

/-- Settles O48: the subnets before the first one without an enabled force actuator are rewritten, and there the cycle stops. -/
theorem updateWithoutEnabledActuatorIsZeroCount : Obligations.UpdateWithoutEnabledActuatorIsZeroCount := by
  intro s T inp hready hpolls
  obtain ⟨i, hi⟩ := not_forall.mp hpolls
  have hrun : updateRun T inp s = .error (.fault .zeroCount) :=
    bind_eq_error.mpr (.inl (updateSubnets_zeroCount nodup_subnets rfl (fun i _ => hready.rewritable i)
      ⟨i, mem_subnets i, hi⟩))
  rw [exec_update, updateSchedule_ready hready, hrun, finish_fault]

end Sys2Proof.Machine
end

section
/-! The expected-response account through an `UPDATE` (47_buslist R274, R277, R280): the round-robin rewrite moves one response from
the previous target to the new one, the LVDT block sets its monitors' entries, and nothing else writes the table. -/

namespace Sys2Proof.Machine

/-! ## One entry through a sequence -/

/-- What is written to a place by a sequence whose members each write it a value of their own or leave it: one member's value, or
nothing. -/
theorem runAll_entry {α β : Type} {f : α → State → Run} {I : State → Prop} {view : State → β} {hit : α → Option β}
    (hf : ∀ x s t, I s → f x s = .ok t → I t ∧ view t = (hit x).getD (view s)) {xs : List α} {s t : State} (hs : I s)
    (h : runAll f xs s = .ok t) :
    I t ∧ ((∃ x ∈ xs, hit x = some (view t)) ∨ ((∀ x ∈ xs, hit x = none) ∧ view t = view s)) := by
  induction xs generalizing s with
  | nil =>
    cases h
    exact ⟨hs, .inr ⟨List.forall_mem_nil _, rfl⟩⟩
  | cons x xs ih =>
    obtain ⟨u, hu, h⟩ := bind_eq_ok.mp h
    obtain ⟨hu', hview⟩ := hf x s u hs hu
    obtain ⟨ht, ⟨y, hy, hlater⟩ | ⟨hnone, hkeep⟩⟩ := ih hu' h
    · exact ⟨ht, .inl ⟨y, List.mem_cons_of_mem x hy, hlater⟩⟩
    · refine ⟨ht, ?_⟩
      rw [hkeep, hview]
      cases hx : hit x with
      | some v => exact .inl ⟨x, List.mem_cons_self, hx⟩
      | none => exact .inr ⟨List.forall_mem_cons.mpr ⟨hx, hnone⟩, rfl⟩

/-! ## The table, entry by entry -/

/-- Every bank has the entries of its class. -/
def BanksSized (s : State) : Prop :=
  ∀ k, (s.exp.bank k).length = s.cfg.bankSize k ∧ (s.base.bank k).length = s.cfg.bankSize k

theorem Composing.banksSized {T : Topology} {s : State} (h : Composing T s) : BanksSized s := fun k =>
  ⟨h.counts.expSize k, h.counts.baseSize k⟩

theorem baseOf_congr {s t : State} (h : t.base = s.base) (k : DeviceClass) (j : Nat) : t.baseOf k j = s.baseOf k j := by
  rw [State.baseOf, h, State.baseOf]

theorem expOf_congr {s t : State} (h : t.exp = s.exp) (k : DeviceClass) (j : Nat) : t.expOf k j = s.expOf k j := by
  rw [State.expOf, h, State.expOf]

/-- Inside its bank an entry is the one written last. -/
theorem expOf_of_put {s t : State} {k : DeviceClass} {i : Nat} {n : BitVec 3} (h : t.exp = s.exp.put k i n) {l : DeviceClass}
    {j : Nat} (hj : j < (s.exp.bank l).length) : t.expOf l j = if l = k ∧ j = i then n else s.expOf l j := by
  have hset : t.expOf l j = (s.setExp k i n).expOf l j := expOf_congr h l j
  rw [hset, State.expOf_setExp]
  by_cases hk : l = k ∧ j = i
  · obtain ⟨rfl, rfl⟩ := hk
    simp [hj]
  · rw [if_neg hk, if_neg fun h => hk ⟨h.1, h.2.1⟩]

/-! ## Pieces of `UPDATE` -/

theorem scheduled_exp {k : CmdType} {a : Byte} {env : FieldArgs} {s t : State} (h : scheduled k a env s = .ok t) :
    t.exp = s.exp := by
  obtain ⟨ws, -, rfl⟩ := frameCmd_placed h
  rfl

theorem updateForce_exp {T : Topology} {inp : Inputs} {i : Subnet} {s t : State} (h : updateForce T inp i s = .ok t) :
    t.exp = s.exp := by
  unfold updateForce at h
  split at h
  · exact (scheduled_exp h :)
  · cases h
    rfl

theorem hpFrame_exp {P : Profile} {inp : Inputs} {s t : State} (h : hpFrame P inp s = .ok t) : t.exp = s.exp := by
  unfold hpFrame at h
  split at h
  · exact scheduled_exp h
  · cases h
    rfl

theorem updateStep_exp {P : Profile} {inp : Inputs} {i : Subnet} {s t : State} (h : updateStep P inp i s = .ok t) :
    t.exp = s.exp := by
  unfold updateStep at h
  split at h
  · exact (hpFrame_exp h :)
  · cases h
    rfl

/-- The count of a monitor with a slot in this cycle: one more than its base count where the slot is real (47_buslist R277). -/
def State.slotCount (s : State) (j : Nat) : BitVec 3 :=
  if s.lvdtClock = 0 then s.baseOf .hm j + 1 else s.baseOf .hm j

theorem lvdtSlot_exp {d : ILCMap} {s t : State} (h : lvdtSlot d s = .ok t) :
    t.exp = s.exp.put .hm d.dataIndex (s.slotCount d.dataIndex) := by
  unfold lvdtSlot at h
  unfold State.slotCount
  split at h
  · rename_i hclock
    obtain ⟨u, hu, h⟩ := bind_eq_ok.mp h
    obtain ⟨ws, -, rfl⟩ := frameCmd_placed hu
    cases h
    rw [if_pos hclock]
    rfl
  · rename_i hclock
    rw [if_neg hclock]
    split at h
    · obtain ⟨u, hu, h⟩ := bind_eq_ok.mp h
      obtain ⟨-, rfl⟩ := emit_eq_ok.mp hu
      cases h
      rfl
    · cases h

theorem pollFrame_exp {i : Subnet} {d : ILCMap} {s t : State} (h : pollFrame i d s = .ok t) :
    t.exp = s.exp.put .fa d.dataIndex (s.baseOf .fa d.dataIndex + 1) := by
  obtain ⟨u, hu, h⟩ := bind_eq_ok.mp h
  obtain ⟨ws, -, rfl⟩ := frameCmd_placed hu
  cases h
  rfl

theorem restorePolled_exp_congr {i : Subnet} {s t : State} (hdata : t.sub[i].pollData = s.sub[i].pollData)
    (hexp : t.exp = s.exp) (hbase : t.base = s.base) : (restorePolled i t).exp = (restorePolled i s).exp := by
  unfold restorePolled State.setExp State.baseOf
  rw [hdata, hbase]
  cases s.sub[i].pollData <;> simp [hexp]

theorem mem_fa_of_nextTarget {T : Topology} {s : State} {i : Subnet} {d : ILCMap} (h : nextTarget s T i = some d) :
    d ∈ T[i].fa :=
  (List.mem_filter.mp (List.mem_of_getElem? h)).1

/-- Everything the round-robin rewrite can do to the table and the targets: nothing where no frame stands, else the previous
target's count is restored and the new one's set. -/
theorem updatePoll_account {T : Topology} {i : Subnet} {s t : State} (h : updatePoll T i s = .ok t) :
    t = s ∨ ∃ d ∈ T[i].fa, (∀ j : Subnet, t.sub[j].pollData = if j = i then some d.dataIndex else s.sub[j].pollData)
      ∧ t.exp = (restorePolled i s).exp.put .fa d.dataIndex (s.baseOf .fa d.dataIndex + 1) := by
  cases hoff : s.sub[i].pollOffset with
  | none =>
    unfold updatePoll at h
    rw [hoff] at h
    cases h
    exact .inl rfl
  | some o =>
    by_cases hne : s.enabled T .fa i = []
    · unfold updatePoll at h
      rw [hoff] at h
      obtain ⟨next, hnext, -⟩ := bind_eq_ok.mp h
      rw [hne] at hnext
      exact nomatch hnext
    · obtain ⟨d, hd⟩ := Option.isSome_iff_exists.mp (nextTarget_isSome hne)
      rw [updatePoll_some hoff hne hd] at h
      refine .inr ⟨d, mem_fa_of_nextTarget hd, fun j => ?_, ?_⟩
      · rw [pollFrame_sub h]
        by_cases hj : j = i
        · subst hj
          rw [State.modSub_sub_self, if_pos rfl]
        · rw [State.modSub_sub_of_ne _ _ hj, if_neg hj, restorePolled_sub, seek_sub, State.modSub_sub_of_ne s _ hj]
      · have hrestored := restorePolled_exp_congr (i := i)
          (t := seek o (s.modSub i fun r => { r with rr := nextCursor s T i })) (s := s) (by rw [seek_sub, State.modSub_sub_self])
          rfl rfl
        rw [pollFrame_exp h, hrestored, baseOf_congr (s := s) (by simp)]

/-! ## Force actuators -/

theorem isPolled_iff {s : State} {j : Nat} : isPolled s j = true ↔ ∃ i : Subnet, s.sub[i].pollData = some j := by
  simp only [isPolled, List.any_eq_true, decide_eq_true_eq]
  exact ⟨fun ⟨i, _, h⟩ => ⟨i, h⟩, fun ⟨i, h⟩ => ⟨i, mem_subnets i, h⟩⟩

/-- With distinct indices, devices of one class with the same index are on the same subnet. -/
theorem DistinctIndices.subnet_eq {T : Topology} (h : DistinctIndices T) {k : DeviceClass} {i j : Subnet} {d e : ILCMap}
    (hd : d ∈ T[i].devices k) (he : e ∈ T[j].devices k) (hde : d.dataIndex = e.dataIndex) : i = j := by
  have hnodup := h k
  rw [List.map_flatMap, List.nodup_flatMap] at hnodup
  have _ : Std.Symm (Function.onFun List.Disjoint fun i : Subnet => (T[i].devices k).map (·.dataIndex)) :=
    ⟨fun _ _ hij => hij.symm⟩
  by_contra hij
  exact hnodup.2.forall (mem_subnets i) (mem_subnets j) hij (List.mem_map_of_mem hd) (hde ▸ List.mem_map_of_mem he)

/-- The table's entries for force actuators: the base count, one more for a round-robin target. -/
def FaAccount (s : State) : Prop :=
  ∀ j, j < s.cfg.nFA → s.expOf .fa j = s.baseOf .fa j + if isPolled s j then 1 else 0

/-- What is in the account of the force actuators is in the account of a state that agrees on it. -/
theorem FaAccount.congr {s t : State} (h : FaAccount s) (hcfg : t.cfg = s.cfg) (hbase : t.base = s.base)
    (hdata : ∀ i : Subnet, t.sub[i].pollData = s.sub[i].pollData)
    (hexp : ∀ j, j < s.cfg.nFA → t.expOf .fa j = s.expOf .fa j) : FaAccount t := by
  intro j hj
  rw [hcfg] at hj
  have hpolled : isPolled t j = isPolled s j := by simp only [isPolled, hdata]
  rw [hexp j hj, h j hj, hpolled, State.baseOf, State.baseOf, hbase]

theorem PollKnown.congr {T : Topology} {s t : State} (h : PollKnown T s)
    (hdata : ∀ i : Subnet, t.sub[i].pollData = s.sub[i].pollData) : PollKnown T t := fun i p hp =>
  h i p (hdata i ▸ hp)

theorem restorePolled_exp_length (i : Subnet) (s : State) (k : DeviceClass) :
    ((restorePolled i s).exp.bank k).length = (s.exp.bank k).length := by
  unfold restorePolled
  split
  · exact Banks.bank_put_length _ _ _ _ _
  · rfl

theorem restorePolled_expOf {i : Subnet} {s : State} {j : Nat} (hj : j < (s.exp.bank .fa).length) :
    (restorePolled i s).expOf .fa j = if s.sub[i].pollData = some j then s.baseOf .fa j else s.expOf .fa j := by
  unfold restorePolled
  cases hdata : s.sub[i].pollData with
  | none => rfl
  | some p =>
    rw [expOf_of_put (t := s.setExp .fa p (s.baseOf .fa p)) (s := s) (k := .fa) (i := p) rfl hj]
    by_cases hp : j = p
    · subst hp
      simp
    · rw [if_neg fun h => hp h.2, if_neg fun h => hp (Option.some.inj h).symm]

/-- The round-robin rewrite keeps the account: the previous target is no other subnet's, and goes back to its base count. -/
theorem updatePoll_faAccount {T : Topology} {i : Subnet} {s t : State} (hdistinct : DistinctIndices T) (hsized : BanksSized s)
    (hknown : PollKnown T s) (hs : FaAccount s) (h : updatePoll T i s = .ok t) : FaAccount t ∧ PollKnown T t := by
  have hmoves := updatePoll_moves h
  have hcfg := hmoves.kept.cfg
  have hbase := hmoves.update_keeps.1
  rcases updatePoll_account h with rfl | ⟨d, hd, hdata, hexp⟩
  · exact ⟨hs, hknown⟩
  refine ⟨fun j hj => ?account, fun m p hp => ?known⟩
  case known =>
    rw [hdata m] at hp
    split at hp
    · cases hp
      subst m
      exact ⟨d, hd, rfl⟩
    · exact hknown m p hp
  case account =>
    rw [hcfg] at hj
    have hlen : j < (s.exp.bank .fa).length := (hsized .fa).1 ▸ hj
    rw [expOf_of_put hexp (by rwa [restorePolled_exp_length]), baseOf_congr hbase, restorePolled_expOf hlen]
    by_cases hjd : j = d.dataIndex
    · subst hjd
      have hpolled : isPolled t d.dataIndex = true := isPolled_iff.mpr ⟨i, by rw [hdata, if_pos rfl]⟩
      rw [if_pos ⟨rfl, rfl⟩, hpolled]
      rfl
    rw [if_neg fun h => hjd h.2]
    by_cases hold : s.sub[i].pollData = some j
    · have hnot : ¬ isPolled t j = true := by
        intro hpolled
        obtain ⟨m, hm⟩ := isPolled_iff.mp hpolled
        rw [hdata m] at hm
        split at hm
        · exact hjd (Option.some.inj hm).symm
        · rename_i hmi
          obtain ⟨e, he, rfl⟩ := hknown m j hm
          obtain ⟨e', he', hee'⟩ := hknown i _ hold
          exact hmi (hdistinct.subnet_eq (k := .fa) he he' hee'.symm)
      rw [if_pos hold, if_neg hnot]
      exact (BitVec.add_zero _).symm
    · have hsame : isPolled t j = isPolled s j := by
        rw [Bool.eq_iff_iff, isPolled_iff, isPolled_iff]
        refine exists_congr fun m => ?_
        rw [hdata m]
        split
        · subst m
          exact iff_of_false (fun h => hjd (Option.some.inj h).symm) hold
        · rfl
      rw [if_neg hold, hs j hj, hsame]

/-! ## Monitors -/

/-- Some device of the list has this `DataIndex`. -/
def hasIndex (ds : List ILCMap) (j : Nat) : Bool := ds.any fun d => decide (d.dataIndex = j)

theorem hasIndex_iff {ds : List ILCMap} {j : Nat} : hasIndex ds j = true ↔ ∃ d ∈ ds, d.dataIndex = j := by
  simp only [hasIndex, List.any_eq_true, decide_eq_true_eq]

theorem hasSlot_iff {s : State} {j : Nat} : hasSlot s j = true ↔ ∃ i : Subnet, hasIndex s.sub[i].hmSched j = true := by
  simp only [hasSlot, List.any_eq_true (l := subnets)]
  exact ⟨fun ⟨i, _, h⟩ => ⟨i, h⟩, fun ⟨i, h⟩ => ⟨i, mem_subnets i, h⟩⟩

/-- Rewriting an LVDT block sets the entries of its monitors, and no other. -/
theorem lvdtSlots_expOf {ds : List ILCMap} {s t : State} (hsized : BanksSized s) (h : runAll lvdtSlot ds s = .ok t)
    {k : DeviceClass} {j : Nat} (hj : j < s.cfg.bankSize k) :
    t.expOf k j = if k = .hm ∧ hasIndex ds j = true then s.slotCount j else s.expOf k j := by
  have hstep : ∀ (d : ILCMap) (u v : State),
      (u.base = s.base ∧ u.lvdtClock = s.lvdtClock ∧ (u.exp.bank k).length = s.cfg.bankSize k) → lvdtSlot d u = .ok v →
      (v.base = s.base ∧ v.lvdtClock = s.lvdtClock ∧ (v.exp.bank k).length = s.cfg.bankSize k)
        ∧ v.expOf k j = (if k = .hm ∧ d.dataIndex = j then some (s.slotCount j) else none).getD (u.expOf k j) := by
    rintro d u v ⟨hbase, hclock, hlen⟩ huv
    have hexp := lvdtSlot_exp huv
    have hmoves : Moves (containersOf []) false u v := lvdtSlot_moves huv
    have hvbase : v.base = u.base := hmoves.update_keeps.1
    have hvclock : v.lvdtClock = u.lvdtClock := hmoves.kept.lvdtClock
    have hcount : u.slotCount d.dataIndex = s.slotCount d.dataIndex := by
      rw [State.slotCount, State.slotCount, hclock, baseOf_congr hbase]
    refine ⟨⟨hvbase.trans hbase, hvclock.trans hclock, ?_⟩, ?_⟩
    · rw [hexp, Banks.bank_put_length, hlen]
    · rw [expOf_of_put hexp (hlen ▸ hj), hcount]
      by_cases hd : k = .hm ∧ j = d.dataIndex
      · rw [if_pos hd, if_pos ⟨hd.1, hd.2.symm⟩, hd.2, Option.getD_some]
      · rw [if_neg hd, if_neg fun h => hd ⟨h.1, h.2.symm⟩, Option.getD_none]
  obtain ⟨-, ⟨d, hd, hhit⟩ | ⟨hnone, hkeep⟩⟩ := runAll_entry hstep ⟨rfl, rfl, (hsized k).1⟩ h
  · split at hhit
    · rename_i hdj
      rw [if_pos ⟨hdj.1, hasIndex_iff.mpr ⟨d, hd, hdj.2⟩⟩]
      exact (Option.some.inj hhit).symm
    · exact nomatch hhit
  · rw [hkeep, if_neg]
    rintro ⟨hk, hslot⟩
    obtain ⟨d, hd, hdj⟩ := hasIndex_iff.mp hslot
    exact nomatch (if_pos ⟨hk, hdj⟩).symm.trans (hnone d hd)

theorem updateLvdt_expOf {i : Subnet} {s t : State} (hsized : BanksSized s)
    (hslots : s.sub[i].lvdtOffset = none → s.sub[i].hmSched = []) (h : updateLvdt i s = .ok t)
    {k : DeviceClass} {j : Nat} (hj : j < s.cfg.bankSize k) :
    t.expOf k j = if k = .hm ∧ hasIndex s.sub[i].hmSched j = true then s.slotCount j else s.expOf k j := by
  unfold updateLvdt at h
  split at h
  · rename_i o _
    exact (lvdtSlots_expOf (s := seek o s) hsized h hj :)
  · rename_i hoff
    cases h
    rw [hslots hoff]
    exact (if_neg fun hk => nomatch hk.2).symm

/-! ## One subnet -/

/-- The round-robin rewrite touches no entry of another class. -/
theorem updatePoll_expOf {T : Topology} {i : Subnet} {s t : State} (h : updatePoll T i s = .ok t) {k : DeviceClass} (hk : k ≠ .fa)
    (j : Nat) : t.expOf k j = s.expOf k j := by
  have hrestored : (restorePolled i s).expOf k j = s.expOf k j := by
    unfold restorePolled
    split
    · rw [State.expOf_setExp, if_neg fun h => hk h.1]
    · rfl
  rcases updatePoll_account h with rfl | ⟨d, -, -, hexp⟩
  · rfl
  · rw [← hrestored, State.expOf, hexp, Banks.bank_put_of_ne _ _ _ hk, State.expOf]

theorem SubnetRegs.hmSched_congr {r r' : SubnetRegs} (h : r'.places = r.places) : r'.hmSched = r.hmSched :=
  congrArg Prod.snd h

/-- What the rewrites of one subnet do to the entries of hardpoints and monitors: its slots' entries are set. -/
theorem updateSubnet_expOf {T : Topology} {P : Profile} {inp : Inputs} {i : Subnet} {s t : State} (hc : Composing T s)
    (h : updateSubnet T P inp i s = .ok t) {k : DeviceClass} (hk : k ≠ .fa) {j : Nat} (hj : j < s.cfg.bankSize k) :
    t.expOf k j = if k = .hm ∧ hasIndex s.sub[i].hmSched j = true then s.slotCount j else s.expOf k j := by
  obtain ⟨s1, hforce, h⟩ := bind_eq_ok.mp h
  obtain ⟨s2, hpoll, h⟩ := bind_eq_ok.mp h
  obtain ⟨s3, hstep, hlvdt⟩ := bind_eq_ok.mp h
  have hmoves : Moves T false s s3 :=
    ((updateForce_moves hforce).trans (updatePoll_moves hpoll)).trans (updateStep_moves hstep)
  have hc3 := hmoves.composing hc
  have hsched : s3.sub[i].hmSched = s.sub[i].hmSched := by
    have hplaces := SubnetRegs.hmSched_congr ((updatePoll_patching hpoll).places i)
    rw [updateForce_sub hforce] at hplaces
    rw [updateStep_sub hstep, hplaces]
  have hcount : s3.slotCount j = s.slotCount j := by
    rw [State.slotCount, State.slotCount, hmoves.kept.lvdtClock, baseOf_congr hmoves.update_keeps.1]
  have hexp : s3.expOf k j = s.expOf k j := by
    rw [expOf_congr (updateStep_exp hstep), updatePoll_expOf hpoll hk, expOf_congr (updateForce_exp hforce)]
  rw [updateLvdt_expOf hc3.banksSized (hc3.regs i).slots hlvdt (hmoves.kept.cfg ▸ hj), hsched, hcount, hexp]

/-- `UPDATE` under way from `s`, the force actuators in account. -/
structure Midway (T : Topology) (s t : State) : Prop where
  moves : Moves T false s t
  patching : Patching T s t
  account : FaAccount t
  known : PollKnown T t

theorem updateSubnet_midway {T : Topology} {inp : Inputs} {i : Subnet} {s u t : State} (hdistinct : DistinctIndices T)
    (hc : Composing T s) (hm : Midway T s u) (h : updateSubnet T s.profile inp i u = .ok t) : Midway T s t := by
  have hall := updateSubnet_moves h
  obtain ⟨s1, hforce, h'⟩ := bind_eq_ok.mp h
  obtain ⟨s2, hpoll, h'⟩ := bind_eq_ok.mp h'
  obtain ⟨s3, hstep, hlvdt⟩ := bind_eq_ok.mp h'
  have hmoves1 := updateForce_moves (T := T) hforce
  have hmoves2 := updatePoll_moves hpoll
  have hmoves3 : Moves T false s2 s3 := updateStep_moves hstep
  have hmoves4 : Moves T false s3 t := updateLvdt_moves hlvdt
  have hc1 : Composing T s1 := hmoves1.composing (hm.moves.composing hc)
  have hc3 : Composing T s3 := hmoves3.composing (hmoves2.composing hc1)
  have hdata1 : ∀ m : Subnet, s1.sub[m].pollData = u.sub[m].pollData := fun m => by rw [updateForce_sub hforce]
  have hdata4 : ∀ m : Subnet, t.sub[m].pollData = s2.sub[m].pollData := fun m => by
    rw [updateLvdt_sub hlvdt, updateStep_sub hstep]
  obtain ⟨haccount, hknown⟩ := updatePoll_faAccount hdistinct hc1.banksSized (hm.known.congr hdata1)
    (hm.account.congr hmoves1.kept.cfg hmoves1.update_keeps.1 hdata1 fun j _ => expOf_congr (updateForce_exp hforce) _ _) hpoll
  have hkeep : Moves T false s2 t := hmoves3.trans hmoves4
  refine ⟨hm.moves.trans hall, hm.patching.trans (updateSubnet_patching hm.patching.profile h), ?_, hknown.congr hdata4⟩
  refine haccount.congr hkeep.kept.cfg hkeep.update_keeps.1 hdata4 fun j hj => ?_
  rw [updateLvdt_expOf hc3.banksSized (hc3.regs i).slots hlvdt (k := .fa) (hmoves3.kept.cfg ▸ hj), if_neg nofun,
    expOf_congr (updateStep_exp hstep)]

/-! ## The whole cycle -/

/-- After the rewrites of all subnets the entries of hardpoints are as before, those of monitors with a slot set. -/
theorem updateSubnets_expOf {T : Topology} {inp : Inputs} {s t : State} (hdistinct : DistinctIndices T) (hc : Composing T s)
    (haccount : FaAccount s) (hknown : PollKnown T s) (h : runAll (updateSubnet T s.profile inp) subnets s = .ok t) :
    Midway T s t ∧ ∀ k j, k ≠ .fa → j < s.cfg.bankSize k →
      t.expOf k j = if k = .hm ∧ hasSlot s j = true then s.slotCount j else s.expOf k j := by
  have hstart : Midway T s s := ⟨.refl, .refl T s, haccount, hknown⟩
  refine ⟨runAll_keeps (Midway T s) (fun i u v hu huv => updateSubnet_midway hdistinct hc hu huv) subnets s t hstart h,
    fun k j hk hj => ?_⟩
  have hstep : ∀ i u v, Midway T s u → updateSubnet T s.profile inp i u = .ok v → Midway T s v ∧ v.expOf k j
      = (if k = .hm ∧ hasIndex s.sub[i].hmSched j = true then some (s.slotCount j) else none).getD (u.expOf k j) := by
    intro i u v hu huv
    have hsched := SubnetRegs.hmSched_congr (hu.patching.places i)
    have hcount : u.slotCount j = s.slotCount j := by
      rw [State.slotCount, State.slotCount, hu.moves.kept.lvdtClock, baseOf_congr hu.moves.update_keeps.1]
    refine ⟨updateSubnet_midway hdistinct hc hu huv, ?_⟩
    rw [updateSubnet_expOf (hu.moves.composing hc) huv hk (hu.moves.kept.cfg ▸ hj), hsched, hcount]
    split <;> rfl
  obtain ⟨-, ⟨i, -, hhit⟩ | ⟨hnone, hkeep⟩⟩ := runAll_entry hstep hstart h
  · split at hhit
    · rename_i hij
      rw [if_pos ⟨hij.1, hasSlot_iff.mpr ⟨i, hij.2⟩⟩]
      exact (Option.some.inj hhit).symm
    · exact nomatch hhit
  · rw [hkeep, if_neg]
    rintro ⟨rfl, hs⟩
    obtain ⟨i, hi⟩ := hasSlot_iff.mp hs
    exact nomatch (if_pos ⟨rfl, hi⟩).symm.trans (hnone i (mem_subnets i))

/-- One more than a count that leaves room, read as a number. -/
theorem toNat_add_indicator {n : BitVec 3} (h : n.toNat ≤ 3) (p : Prop) [Decidable p] :
    (n + if p then 1 else 0).toNat = n.toNat + if p then 1 else 0 := by
  split
  · have hone : (1 : BitVec 3).toNat = 1 := rfl
    rw [BitVec.toNat_add, hone]
    omega
  · simp

/-- An account, as the bits of the entries. -/
theorem accounts_iff {s : State} (hc : CountsOk s.cfg s.exp s.base) {real : Bool} :
    Accounts real s ↔ FaAccount s ∧ (∀ j, j < s.cfg.nHP → s.expOf .hp j = s.baseOf .hp j)
      ∧ ∀ j, j < s.cfg.nHM → s.expOf .hm j = s.baseOf .hm j + if (real && hasSlot s j) = true then 1 else 0 := by
  have hle : ∀ k j, (s.baseOf k j).toNat ≤ 3 := fun k j =>
    (hc.baseOf_le k j).trans (by cases k <;> decide)
  unfold Accounts FaAccount
  simp only [← BitVec.toNat_inj (y := _ + _), toNat_add_indicator (hle _ _)]

/-- Settles O51: each round-robin rewrite moves one response from the old target to the new one, and the slots of the cycle set
the entries of their monitors. -/
theorem updateKeepsTheExpectedResponseAccount : Obligations.UpdateKeepsTheExpectedResponseAccount := by
  intro s t T inp real hinv hT hdistinct hknown haccounts hexec hdone
  rcases update_patching hexec with ⟨e, rfl⟩ | ⟨T', u, ⟨hphase, hT', -⟩, hrun, -, rfl⟩
  · exact nomatch hdone
  obtain ⟨v, hv, rfl⟩ := updateSchedule_runs hT hrun
  have hc := hinv.composing_updateInit hphase hT
  have hc0 : CountsOk s.cfg s.exp s.base := hc.counts
  obtain ⟨hfa, hhp, hhm⟩ := (accounts_iff hc0).mp haccounts
  obtain ⟨hmid, hentries⟩ := updateSubnets_expOf hdistinct hc hfa hknown hv
  have hcv := hmid.moves.composing hc
  have hcfg : v.cfg = s.cfg := hmid.moves.kept.cfg
  have hbase : v.base = s.base := hmid.moves.update_keeps.1
  have hslots : ∀ j, hasSlot v j = hasSlot s j := fun j => by
    have hsched : ∀ i : Subnet, v.sub[i].hmSched = s.sub[i].hmSched := fun i => SubnetRegs.hmSched_congr (hmid.patching.places i)
    simp only [hasSlot, hsched]
  have hfinal : Accounts (decide (s.lvdtClock = 0)) v := by
    refine (accounts_iff hcv.counts).mpr ⟨hmid.account, fun j hj => ?_, fun j hj => ?_⟩
    · rw [baseOf_congr hbase]
      exact (hentries .hp j nofun (hcfg ▸ hj)).trans (hhp j (hcfg ▸ hj))
    · rw [baseOf_congr hbase, hslots]
      refine (hentries .hm j nofun (hcfg ▸ hj)).trans ?_
      by_cases hslot : hasSlot s j = true
      · rw [if_pos ⟨rfl, hslot⟩, hslot, Bool.and_true]
        by_cases hclock : s.lvdtClock = 0
        · exact (if_pos hclock).trans (by rw [if_pos (decide_eq_true hclock)]; rfl)
        · exact (if_neg hclock).trans (by rw [if_neg (by simpa using hclock)]; exact (BitVec.add_zero _).symm)
      · rw [if_neg fun h => hslot h.2, if_neg (by simp [hslot])]
        exact (hhm j (hcfg ▸ hj)).trans (by rw [if_neg (by simp [hslot])])
  exact ⟨hfinal, hmid.known⟩

end Sys2Proof.Machine
end

section
/-! Composing runs of words (47_buslist R258 to R266): a piece of `BUILD` stores its words at the cursor and leaves the registers it
records, or it overruns the buffer. One lemma per piece, with the words of Machine/Image.lean. -/

namespace Sys2Proof.Machine

/-! ## Words stored one run after another -/

theorem Stores.append {m m1 m2 : Memory} {a : Nat} {ws vs : List Word} (h : Stores m m1 a ws) (g : Stores m1 m2 (a + ws.length) vs) :
    Stores m m2 a (ws ++ vs) := by
  intro x
  rw [g x, h x, List.length_append]
  by_cases hx : x < a + ws.length
  · rw [if_neg fun h => absurd hx (Nat.not_lt.mpr h.1)]
    by_cases hax : a ≤ x
    · rw [if_pos ⟨hax, hx⟩, if_pos ⟨hax, by omega⟩, List.getElem?_append_left (by omega)]
    · rw [if_neg fun h => hax h.1, if_neg fun h => hax h.1]
  · rw [if_neg (c := a ≤ x ∧ x < a + ws.length) fun h => hx h.2, List.getElem?_append_right (by omega), Nat.sub_add_eq]
    exact if_congr (by omega) rfl rfl

theorem stores_nil (m : Memory) (a : Nat) : Stores m m a [] := fun x => by
  rw [if_neg (by simp)]

/-- The state once `n` words are composed: the buffer is `m`, the registers of the subnets are `R`, the counts `e` and `b`, and `k`
blocks have been closed. -/
def State.composed (s : State) (m : Memory) (n : Nat) (R : Vector SubnetRegs 5) (e b : Banks (BitVec 3)) (k : Nat) : State :=
  { s with mem := m, cursor := BitVec.ofNat 16 (s.cursor.toNat + n), sub := R, exp := e, base := b, freeCount := s.freeCount + k }

theorem State.composed_composed {s : State} {m m' : Memory} {n n' k k' : Nat} {R R' : Vector SubnetRegs 5}
    {e e' b b' : Banks (BitVec 3)} (h : (s.composed m n R e b k).cursor.toNat = s.cursor.toNat + n) :
    (s.composed m n R e b k).composed m' n' R' e' b' k' = s.composed m' (n + n') R' e' b' (k + k') := by
  unfold State.composed at h ⊢
  dsimp only at h ⊢
  rw [h, Nat.add_assoc, Nat.add_assoc]

/-- The run stores the words `ws` at the cursor and leaves the registers `R`, `k` blocks having been closed; without room for the
words it overruns the buffer. -/
structure Composes (r : Run) (s : State) (ws : List Word) (R : Vector SubnetRegs 5) (k : Nat) : Prop where
  ok : s.cursor.toNat + ws.length ≤ s.cfg.capacity →
    ∃ m e b, Stores s.mem m s.cursor.toNat ws ∧ r = .ok (s.composed m ws.length R e b k)
  overrun : s.cursor.toNat ≤ s.cfg.capacity → s.cfg.capacity < s.cursor.toNat + ws.length → r = .error (.fault .bufferOverrun)

theorem composed_cursor_toNat {s : State} {m : Memory} {n k : Nat} {R : Vector SubnetRegs 5} {e b : Banks (BitVec 3)}
    (h : s.cursor.toNat + n ≤ 65535) : (s.composed m n R e b k).cursor.toNat = s.cursor.toNat + n :=
  Nat.mod_eq_of_lt (Nat.lt_succ_of_le h)

/-- Pieces one after another compose their words one after another. -/
theorem Composes.bind {r : Run} {f : State → Run} {s : State} {ws vs : List Word} {R R' : Vector SubnetRegs 5} {k l : Nat}
    {c : Config} (hc : c.capacity ≤ 65535) (h : Composes r s ws R k)
    (g : ∀ m e b, (s.composed m ws.length R e b k).cursor.toNat = s.cursor.toNat + ws.length →
      Composes (f (s.composed m ws.length R e b k)) (s.composed m ws.length R e b k) vs R' l)
    (hs : s.cfg = c := by rfl) : Composes (r >>= f) s (ws ++ vs) R' (k + l) := by
  subst hs
  have hthen : s.cursor.toNat + ws.length ≤ s.cfg.capacity → ∃ m e b, Stores s.mem m s.cursor.toNat ws
      ∧ (s.composed m ws.length R e b k).cursor.toNat = s.cursor.toNat + ws.length
      ∧ (r >>= f) = f (s.composed m ws.length R e b k) := fun hfit => by
    obtain ⟨m, e, b, hstores, hr⟩ := h.ok hfit
    exact ⟨m, e, b, hstores, composed_cursor_toNat (hfit.trans hc), by rw [hr]; rfl⟩
  constructor
  · intro hfit
    rw [List.length_append] at hfit
    obtain ⟨m, e, b, hstores, hcur, hrun⟩ := hthen (by omega)
    obtain ⟨m', e', b', hstores', hr'⟩ := (g m e b hcur).ok (by rw [hcur, Nat.add_assoc]; exact hfit)
    rw [hcur] at hstores'
    exact ⟨m', e', b', hstores.append hstores', by rw [hrun, hr', State.composed_composed hcur, List.length_append]⟩
  · intro hin hover
    rw [List.length_append] at hover
    by_cases hfit : s.cursor.toNat + ws.length ≤ s.cfg.capacity
    · obtain ⟨m, e, b, -, hcur, hrun⟩ := hthen hfit
      rw [hrun]
      exact (g m e b hcur).overrun (hcur ▸ hfit) (by rw [hcur, Nat.add_assoc]; exact hover)
    · exact bind_eq_error.mpr (.inl (h.overrun hin (Nat.lt_of_not_le hfit)))

/-- Pieces of one block, one after another. -/
theorem Composes.seq {r : Run} {f : State → Run} {s : State} {ws vs : List Word} {R R' : Vector SubnetRegs 5}
    {c : Config} (hc : c.capacity ≤ 65535) (h : Composes r s ws R 0)
    (g : ∀ m e b, (s.composed m ws.length R e b 0).cursor.toNat = s.cursor.toNat + ws.length →
      Composes (f (s.composed m ws.length R e b 0)) (s.composed m ws.length R e b 0) vs R' 0)
    (hs : s.cfg = c := by rfl) : Composes (r >>= f) s (ws ++ vs) R' 0 :=
  h.bind (l := 0) hc g hs

/-- A piece may start by writing registers of a subnet. -/
theorem Composes.of_modSub {r : Run} {s : State} {i : Subnet} {f : SubnetRegs → SubnetRegs} {ws : List Word}
    {R : Vector SubnetRegs 5} {k : Nat} (h : Composes r (s.modSub i f) ws R k) : Composes r s ws R k :=
  ⟨h.ok, h.overrun⟩

/-- A piece may end by writing registers of the subnets, and counts. -/
theorem Composes.map {r : Run} {f : State → State} {s : State} {ws : List Word} {R R' : Vector SubnetRegs 5} {k : Nat}
    (h : Composes r s ws R k)
    (hf : ∀ m e b, ∃ e' b', f (s.composed m ws.length R e b k) = s.composed m ws.length R' e' b' k) :
    Composes (r >>= fun u => .ok (f u)) s ws R' k := by
  constructor
  · intro hfit
    obtain ⟨m, e, b, hstores, rfl⟩ := h.ok hfit
    obtain ⟨e', b', hf⟩ := hf m e b
    exact ⟨m, e', b', hstores, congrArg Except.ok hf⟩
  · intro hin hover
    exact bind_eq_error.mpr (.inl (h.overrun hin hover))

theorem composes_nil (s : State) : Composes (.ok s) s [] s.sub 0 := by
  refine ⟨fun _ => ⟨s.mem, s.exp, s.base, stores_nil _ _, ?_⟩, fun hin hover => absurd hin (Nat.not_le.mpr hover)⟩
  simp [State.composed]

/-! The configuration `c` is named apart from the state, so that a lemma applies to the states a piece passes through. -/

theorem emit_composes {s : State} {c : Config} (hc : c.capacity ≤ 65535) (ws : List Word) (hs : s.cfg = c := by rfl) :
    Composes (emit ws s) s ws s.sub 0 := by
  subst hs
  constructor
  · intro hfit
    exact ⟨_, s.exp, s.base, stores_writeAll _ _ _, emit_ok hfit hc⟩
  · exact fun _ hover => emit_overrun hover

theorem scheduled_composes {s : State} {c : Config} (hl : c.parametersLegal = true) {k : CmdType} {a : Byte} {env : FieldArgs}
    (hp : ∃ p, frameParts c k (bindNamed env) = .ok p) (hs : s.cfg = c := by rfl) :
    Composes (scheduled k a env s) s (scheduledImage c k a env) s.sub 0 := by
  subst hs
  obtain ⟨p, hp⟩ := hp
  rw [scheduled_eq hl hp]
  exact emit_composes (Config.parametersLegal_capacity hl) _

/-- A sequence whose members each compose an image, and write no register, composes the images one after another. -/
theorem runAll_composes {α : Type} {f : α → State → Run} {img : α → List Word} {s : State} {c : Config}
    (hc : c.capacity ≤ 65535) {xs : List α}
    (hf : ∀ x ∈ xs, ∀ u : State, u.cfg = c → u.lvdtClock = s.lvdtClock → Composes (f x u) u (img x) u.sub 0)
    (hs : s.cfg = c := by rfl) : Composes (runAll f xs s) s (xs.flatMap img) s.sub 0 := by
  subst hs
  induction xs generalizing s with
  | nil => exact composes_nil s
  | cons x xs ih =>
    refine Composes.seq hc (hf x List.mem_cons_self s rfl rfl) fun m e b _ => ih hc fun y hy u hcfg hclock => ?_
    exact hf y (List.mem_cons_of_mem x hy) u hcfg hclock

/-- A part that the profile or the topology may leave out. -/
theorem Composes.ite {c : Prop} [Decidable c] {r : Run} {s : State} {ws : List Word} {R : Vector SubnetRegs 5}
    (h : c → Composes r s ws R 0) (hws : ¬ c → ws = []) (hR : ¬ c → R = s.sub) :
    Composes (if c then r else .ok s) s ws R 0 := by
  by_cases hc : c
  · rw [if_pos hc]
    exact h hc
  · rw [if_neg hc, hws hc, hR hc]
    exact composes_nil s

/-! ## Status frames -/

theorem scheduledStatus_ready {c : Config} {k : CmdType} (hk : tailKind k = some .unicast) (h : CommandReady c k) :
    ∃ p, frameParts c k (bindNamed noArgs) = .ok p :=
  frameParts_ready (k := (k, noArgs)) (fillable_status c hk) h

theorem statusImage_composes {s : State} {c : Config} (hl : c.parametersLegal = true) {k : CmdType}
    (hk : tailKind k = some .unicast) (h : CommandReady c k) (d : ILCMap) (hs : s.cfg = c := by rfl) :
    Composes (scheduled k d.address noArgs s) s (statusImage c k d) s.sub 0 :=
  scheduled_composes hl (scheduledStatus_ready hk h) hs

/-- Noting a base count writes no register. -/
theorem Composes.setBase {r : Run} {s : State} {ws : List Word} {k : DeviceClass} {j : Nat} {n : BitVec 3}
    (h : Composes r s ws s.sub 0) : Composes (r >>= fun u => .ok (u.setBase k j n)) s ws s.sub 0 :=
  h.map fun _ e b => ⟨e.put k j n, b.put k j n, rfl⟩

theorem faStatusFrame_composes {s : State} {c : Config} (hl : c.parametersLegal = true) (h : CommandReady c .pneumaticForceStatus)
    (d : ILCMap) (hs : s.cfg = c := by rfl) : Composes (faStatusFrame d s) s (statusImage c .pneumaticForceStatus d) s.sub 0 :=
  (statusImage_composes hl rfl h d hs).setBase

theorem hpStatusFrames_composes {s : State} {c : Config} (hl : c.parametersLegal = true)
    (h : CommandReady c .electromechanicalForceAndStatus) (h' : CommandReady c .reportServerStatus) (d : ILCMap)
    (hs : s.cfg = c := by rfl) :
    Composes (hpStatusFrames d s) s
      (statusImage c .electromechanicalForceAndStatus d ++ statusImage c .reportServerStatus d) s.sub 0 := by
  subst hs
  exact Composes.seq (Config.parametersLegal_capacity hl) (statusImage_composes hl rfl h d) fun _ _ _ _ =>
    (statusImage_composes hl rfl h' d).setBase

theorem hmStatusFrames_composes {s : State} {c : Config} (hl : c.parametersLegal = true) (h : CommandReady c .readDcaPressure)
    (h' : CommandReady c .reportDcaStatus) (h'' : CommandReady c .reportServerStatus) (d : ILCMap) (hs : s.cfg = c := by rfl) :
    Composes (hmStatusFrames d s) s
      (statusImage c .readDcaPressure d ++ statusImage c .reportDcaStatus d ++ statusImage c .reportServerStatus d) s.sub 0 := by
  subst hs
  have hc := Config.parametersLegal_capacity hl
  rw [List.append_assoc]
  exact Composes.seq hc (statusImage_composes hl rfl h d) fun _ _ _ _ =>
    Composes.seq hc (statusImage_composes hl rfl h' d) fun _ _ _ _ => (statusImage_composes hl rfl h'' d).setBase

/-- With the countdown at 0 an LVDT slot is a frame (47_buslist R266). -/
theorem lvdtSlot_composes {s : State} {c : Config} (hl : c.parametersLegal = true) (h : CommandReady c .reportLvdt)
    (hclock : s.lvdtClock = 0) (d : ILCMap) (hs : s.cfg = c := by rfl) :
    Composes (lvdtSlot d s) s (statusImage c .reportLvdt d) s.sub 0 := by
  unfold lvdtSlot
  rw [if_pos hclock]
  exact (statusImage_composes hl rfl h d hs).map fun _ _ b => ⟨_, b, rfl⟩

theorem pollFrame_composes {s : State} {c : Config} (hl : c.parametersLegal = true) (h : CommandReady c .reportServerStatus)
    (i : Subnet) (d : ILCMap) (hs : s.cfg = c := by rfl) :
    Composes (pollFrame i d s) s (statusImage c .reportServerStatus d)
      (s.sub.set i { s.sub[i] with pollData := some d.dataIndex }) 0 :=
  (statusImage_composes hl rfl h d hs).map fun _ _ b => ⟨_, b, rfl⟩

/-! ## The sections of a block -/

/-- What `BUILD` needs of a subnet: commands ready, inputs of the right shapes. -/
structure Composable (T : Topology) (P : Profile) (inp : Inputs) (s : State) (i : Subnet) : Prop where
  legal : s.cfg.parametersLegal = true
  steps : inp.steps.length = s.cfg.nHP
  commands : ∀ k ∈ buildCommandsOn T P s i, CommandReady s.cfg k

section Ready

variable {T : Topology} {P : Profile} {inp : Inputs} {s : State} {i : Subnet} (h : Composable T P inp s i)
include h

theorem Composable.force (hfa : T[i].fa ≠ []) (hP : P.faForceDemand = true) : CommandReady s.cfg .broadcastForceDemand :=
  h.commands _ (by simp [buildCommandsOn, hfa, hP, -Fin.getElem_fin])

theorem Composable.hpBroadcast (hhp : T[i].hp ≠ []) {k : CmdType} (hk : hpCommand P = some k) : CommandReady s.cfg k :=
  h.commands _ (by simp [buildCommandsOn, hhp, hk, -Fin.getElem_fin])

theorem Composable.faStatus (hne : s.enabled T .fa i ≠ []) (hP : P.faStatus = true) :
    CommandReady s.cfg .pneumaticForceStatus ∧ CommandReady s.cfg .reportServerStatus :=
  ⟨h.commands _ (by simp [buildCommandsOn, hne, hP]), h.commands _ (by simp [buildCommandsOn, hne, hP])⟩

theorem Composable.hpStatus (hne : s.enabled T .hp i ≠ []) (hP : P.hpStatus = true) :
    CommandReady s.cfg .electromechanicalForceAndStatus ∧ CommandReady s.cfg .reportServerStatus :=
  ⟨h.commands _ (by simp [buildCommandsOn, hne, hP]), h.commands _ (by simp [buildCommandsOn, hne, hP])⟩

theorem Composable.hmStatus (hne : s.enabled T .hm i ≠ []) (hP : P.hmStatus = true) :
    CommandReady s.cfg .readDcaPressure ∧ CommandReady s.cfg .reportDcaStatus ∧ CommandReady s.cfg .reportServerStatus :=
  ⟨h.commands _ (by simp [buildCommandsOn, hne, hP]), h.commands _ (by simp [buildCommandsOn, hne, hP]),
    h.commands _ (by simp [buildCommandsOn, hne, hP])⟩

theorem Composable.lvdt (hne : s.enabled T .hm i ≠ []) (hP : P.hmLVDT = true) : CommandReady s.cfg .reportLvdt :=
  h.commands _ (by simp [buildCommandsOn, hne, hP])

theorem Composable.capacity : s.cfg.capacity ≤ 65535 :=
  Config.parametersLegal_capacity h.legal

end Ready

theorem set_self (R : Vector SubnetRegs 5) (i : Subnet) : R.set i R[i] = R :=
  Vector.set_getElem_self i.isLt

/-- The force demand and its timestamp, at the offset recorded (47_buslist R263). -/
theorem forcePart_composes {T : Topology} {P : Profile} {inp : Inputs} {s : State} {i : Subnet} (h : Composable T P inp s i)
    (hfa : T[i].fa ≠ []) :
    Composes (if P.faForceDemand then buildForce T inp i s else .ok s) s (forceImage T P inp s i s.freeCount)
      (s.sub.set i { s.sub[i] with fdOffset := if P.faForceDemand then some s.cursor else s.sub[i].fdOffset }) 0 := by
  refine Composes.ite (fun hP => ?_) (fun hP => if_neg hP) (fun hP => by rw [if_neg hP]; exact set_self s.sub i)
  have hp := frameParts_ready (fillable_force s.cfg s.freeCount i s.bcast inp T[i].fa) (h.force hfa hP)
  rw [forceImage, if_pos hP, if_pos hP]
  refine Composes.of_modSub (i := i) (f := fun r => { r with fdOffset := some s.cursor }) ?_
  exact Composes.seq h.capacity (scheduled_composes h.legal hp) fun _ _ _ _ => emit_composes h.capacity _

/-- The round-robin frame at `BUILD`, as buildStatus composes it: to the enabled force actuator the cursor names. -/
def pollFirst (T : Topology) (i : Subnet) (s : State) : Run :=
  match (s.enabled T .fa i)[s.sub[i].rr.toNat]? with
  | some t => pollFrame i t (s.modSub i fun r => { r with pollOffset := some s.cursor })
  | none => .ok s

theorem buildStatus_eq (T : Topology) (i : Subnet) (s : State) :
    buildStatus T i s = runAll faStatusFrame (s.enabled T .fa i) s >>= pollFirst T i := rfl

/-- The registers the round-robin frame leaves, composed at an index: its offset, and its target, the first enabled force
actuator. -/
def polledRegs (T : Topology) (s : State) (i : Subnet) (at_ : Index) : SubnetRegs :=
  { s.sub[i] with
    pollOffset := if (s.enabled T .fa i).isEmpty then none else some at_,
    pollData := (s.enabled T .fa i).head?.map (·.dataIndex) }

/-- Its target is the first enabled force actuator: `BUILD` has cleared the cursor (46_roundrobin R236). -/
theorem pollFirst_composes {T : Topology} {s : State} {i : Subnet} {c : Config} (hl : c.parametersLegal = true)
    (hready : s.enabled T .fa i ≠ [] → CommandReady c .reportServerStatus) (hrr : s.sub[i].rr = 0)
    (hoff : s.sub[i].pollOffset = none) (hdata : s.sub[i].pollData = none) (hs : s.cfg = c := by rfl) :
    Composes (pollFirst T i s) s ((s.enabled T .fa i).head?.toList.flatMap (statusImage c .reportServerStatus))
      (s.sub.set i (polledRegs T s i s.cursor)) 0 := by
  unfold pollFirst polledRegs
  rw [hrr]
  cases hds : s.enabled T .fa i with
  | nil =>
    have hself : { s.sub[i] with pollOffset := none, pollData := none } = s.sub[i] := by rw [← hoff, ← hdata]
    have hkeep := set_self s.sub i
    rw [← hself] at hkeep
    have hnil := composes_nil s
    rw [← hkeep] at hnil
    exact hnil
  | cons d ds =>
    have hframe := pollFrame_composes (s := s.modSub i fun r => { r with pollOffset := some s.cursor }) hl
      (hready (by rw [hds]; exact List.cons_ne_nil d ds)) i d hs
    rw [State.modSub_sub_self] at hframe
    have hsub : (s.modSub i fun r => { r with pollOffset := some s.cursor }).sub.set i
        { s.sub[i] with pollOffset := some s.cursor, pollData := some d.dataIndex }
        = s.sub.set i { s.sub[i] with pollOffset := some s.cursor, pollData := some d.dataIndex } :=
      Vector.set_set _ i.isLt
    rw [hsub] at hframe
    rw [List.head?_cons, Option.toList_some, List.flatMap_singleton]
    exact hframe.of_modSub

/-- The status frames and the round-robin frame (47_buslist R263). -/
theorem buildStatus_composes {T : Topology} {P : Profile} {inp : Inputs} {s : State} {i : Subnet} (h : Composable T P inp s i)
    (hP : P.faStatus = true) (hrr : s.sub[i].rr = 0) (hoff : s.sub[i].pollOffset = none) (hdata : s.sub[i].pollData = none) :
    Composes (buildStatus T i s) s (faStatusImage T P s i ++ pollImage T P s i)
      (s.sub.set i (polledRegs T s i (BitVec.ofNat 16 (s.cursor.toNat + (faStatusImage T P s i).length)))) 0 := by
  rw [buildStatus_eq, faStatusImage, pollImage, if_pos hP, if_pos hP]
  refine Composes.seq h.capacity (runAll_composes h.capacity fun d hd u hcfg _ => ?_) fun m e b hcur => ?_
  · exact faStatusFrame_composes h.legal (h.faStatus (List.ne_nil_of_mem hd) hP).1 d hcfg
  · exact pollFirst_composes h.legal (fun hne => (h.faStatus hne hP).2) hrr hoff hdata

/-- A part that may be left out, followed by the rest. -/
theorem ite_bind {c : Prop} [Decidable c] {x y : Run} {f : State → Run} :
    (if c then x >>= f else y >>= f) = (if c then x else y) >>= f := by
  split <;> rfl

theorem faSection_eq (T : Topology) (P : Profile) (inp : Inputs) (i : Subnet) (s : State) :
    faSection T P inp i s = (if P.faForceDemand then buildForce T inp i s else .ok s) >>= fun u =>
      if P.faStatus then buildStatus T i u else .ok u :=
  ite_bind

theorem set_set_sub {R : Vector SubnetRegs 5} {i : Subnet} {r r' : SubnetRegs} : (R.set i r).set i r' = R.set i r' :=
  Vector.set_set _ i.isLt

theorem getElem_set_sub {R : Vector SubnetRegs 5} {i : Subnet} {r : SubnetRegs} : (R.set i r)[i] = r :=
  Vector.getElem_set_self i.isLt

/-- The registers of the FA section, composed from an index on, from the registers `BUILD` cleared. -/
def faRegs (T : Topology) (P : Profile) (inp : Inputs) (s : State) (i : Subnet) : SubnetRegs :=
  { SubnetRegs.initial with
    fdOffset := if !T[i].fa.isEmpty && P.faForceDemand then some s.cursor else none,
    pollOffset := if !(s.enabled T .fa i).isEmpty && P.faStatus
      then some (BitVec.ofNat 16 (s.cursor.toNat + (forceImage T P inp s i s.freeCount ++ faStatusImage T P s i).length)) else none,
    pollData := if P.faStatus then (s.enabled T .fa i).head?.map (·.dataIndex) else none }

theorem enabled_eq_nil {T : Topology} {s : State} {k : DeviceClass} {i : Subnet} (h : T[i].devices k = []) :
    s.enabled T k i = [] := by
  rw [State.enabled, h, List.filter_nil]

/-- FA section (47_buslist R263). -/
theorem faPart_composes {T : Topology} {P : Profile} {inp : Inputs} {s : State} {i : Subnet} (h : Composable T P inp s i)
    (hsub : s.sub[i] = SubnetRegs.initial) :
    Composes (if T[i].fa ≠ [] then faSection T P inp i s else .ok s) s (faImage T P inp s i s.freeCount)
      (s.sub.set i (faRegs T P inp s i)) 0 := by
  refine Composes.ite (fun hfa => ?_) (fun hfa => if_pos (not_not.mp hfa)) fun hfa => ?_
  swap
  · have hself : faRegs T P inp s i = s.sub[i] := by
      have hds := enabled_eq_nil (s := s) (k := .fa) (not_not.mp hfa)
      simp [faRegs, hsub, not_not.mp hfa, hds, -Fin.getElem_fin, SubnetRegs.initial]
    rw [hself, set_self]
  rw [faSection_eq, faImage, if_neg hfa, List.append_assoc]
  refine (forcePart_composes h hfa).seq h.capacity fun m e b hcur => ?_
  set u := s.composed m (forceImage T P inp s i s.freeCount).length
    (s.sub.set i { s.sub[i] with fdOffset := if P.faForceDemand then some s.cursor else s.sub[i].fdOffset }) e b 0 with hu
  have hui : u.sub[i] = { s.sub[i] with fdOffset := if P.faForceDemand then some s.cursor else s.sub[i].fdOffset } :=
    getElem_set_sub
  have hR : ∀ r, u.sub.set i r = s.sub.set i r := fun r => set_set_sub
  have hue : u.enabled T .fa i = s.enabled T .fa i := rfl
  have hnonempty : (!T[i].fa.isEmpty) = true := by simpa using hfa
  rw [← hR]
  by_cases hP : P.faStatus = true
  · have hregs : faRegs T P inp s i = polledRegs T u i (BitVec.ofNat 16 (u.cursor.toNat + (faStatusImage T P u i).length)) := by
      rw [polledRegs, hui, hue, hcur, faRegs, hsub, List.length_append, hnonempty, hP, Nat.add_assoc]
      cases (s.enabled T .fa i).isEmpty <;> rfl
    rw [if_pos hP, hregs]
    exact buildStatus_composes ⟨h.legal, h.steps, h.commands⟩ hP (by rw [hui, hsub]; rfl) (by rw [hui, hsub]; rfl)
      (by rw [hui, hsub]; rfl)
  · have hregs : faRegs T P inp s i = u.sub[i] := by
      rw [hui, faRegs, hsub, hnonempty, Bool.eq_false_iff.mpr hP, Bool.and_false, Bool.true_and]
      rfl
    rw [if_neg hP, hregs, set_self, faStatusImage, pollImage, if_neg hP, if_neg hP]
    exact composes_nil u

theorem hpSection_eq (T : Topology) (P : Profile) (inp : Inputs) (i : Subnet) (s : State) :
    hpSection T P inp i s = (if P.hpBroadcast = .none then .ok s
      else hpFrame P inp (s.modSub i fun r => { r with stepOffset := some s.cursor })) >>= fun u =>
        if P.hpStatus then runAll hpStatusFrames (u.enabled T .hp i) u else .ok u :=
  ite_bind

/-- The step-motor or freeze frame, or nothing where the profile has none. -/
theorem hpFrame_composes {P : Profile} {inp : Inputs} {s : State} {c : Config} (hl : c.parametersLegal = true)
    (hready : ∀ k, hpCall P s.bcast inp = some k → ∃ p, frameParts c k.1 (bindNamed k.2) = .ok p) (hs : s.cfg = c := by rfl) :
    Composes (hpFrame P inp s) s (hpBroadcastImage c P s.bcast inp) s.sub 0 := by
  unfold hpFrame hpBroadcastImage
  cases hk : hpCall P s.bcast inp with
  | none => exact composes_nil s
  | some k => exact scheduled_composes hl (hready k hk) hs

theorem hpCall_none {P : Profile} (hP : P.hpBroadcast = .none) (b : BitVec 8) (inp : Inputs) : hpCall P b inp = none := by
  unfold hpCall
  rw [hP]

/-- The frame that opens the HP section, at the offset recorded. -/
theorem hpBroadcastPart_composes {T : Topology} {P : Profile} {inp : Inputs} {s : State} {i : Subnet} (h : Composable T P inp s i)
    (hhp : T[i].hp ≠ []) (hoff : s.sub[i].stepOffset = none) :
    Composes (if P.hpBroadcast = .none then .ok s else hpFrame P inp (s.modSub i fun r => { r with stepOffset := some s.cursor })) s
      (hpBroadcastImage s.cfg P s.bcast inp)
      (s.sub.set i { s.sub[i] with stepOffset := if decide (P.hpBroadcast ≠ .none) then some s.cursor else none }) 0 := by
  by_cases hP : P.hpBroadcast = .none
  · have hnil := composes_nil s
    rw [← set_self s.sub i] at hnil
    rw [if_pos hP, if_neg (by simpa using hP), ← hoff, hpBroadcastImage, hpCall_none hP]
    exact hnil
  · rw [if_neg hP, if_pos (by simpa using hP)]
    refine Composes.of_modSub (i := i) (f := fun r => { r with stepOffset := some s.cursor }) ?_
    exact hpFrame_composes h.legal fun k hk =>
      frameParts_ready (fillable_hpCall h.steps hk) (h.hpBroadcast hhp (mem_hpCommand hk))

/-- HP section (47_buslist R264). -/
theorem hpPart_composes {T : Topology} {P : Profile} {inp : Inputs} {s : State} {i : Subnet} (h : Composable T P inp s i)
    (hoff : s.sub[i].stepOffset = none) :
    Composes (if T[i].hp ≠ [] then hpSection T P inp i s else .ok s) s (hpImage T P inp s i)
      (s.sub.set i { s.sub[i] with
        stepOffset := if !T[i].hp.isEmpty && decide (P.hpBroadcast ≠ .none) then some s.cursor else none }) 0 := by
  refine Composes.ite (fun hhp => ?_) (fun hhp => if_pos (not_not.mp hhp)) fun hhp => ?_
  swap
  · rw [not_not.mp hhp, List.isEmpty_nil, Bool.not_true, Bool.false_and, ← hoff]
    exact set_self s.sub i
  have hnonempty : (!T[i].hp.isEmpty) = true := by simpa using hhp
  rw [hpSection_eq, hpImage, if_neg hhp, hnonempty, Bool.true_and]
  refine Composes.seq h.capacity (hpBroadcastPart_composes h hhp hoff) fun m e b _ => ?_
  · refine Composes.ite (fun hP => ?_) (fun hP => if_neg hP) fun _ => rfl
    rw [if_pos hP]
    refine runAll_composes h.capacity fun d hd u hcfg _ => ?_
    obtain ⟨hforce, hserver⟩ := h.hpStatus (List.ne_nil_of_mem hd) hP
    exact hpStatusFrames_composes h.legal hforce hserver d hcfg

/-- HM section (47_buslist R265). -/
theorem hmPart_composes {T : Topology} {P : Profile} {inp : Inputs} {s : State} {i : Subnet} (h : Composable T P inp s i) :
    Composes (if T[i].hm ≠ [] then hmSection T P i s else .ok s) s (hmImage T P s i) s.sub 0 := by
  refine Composes.ite (fun _ => ?_) (fun hhm => ?_) fun _ => rfl
  · refine Composes.ite (fun hP => ?_) (fun hP => if_neg hP) fun _ => rfl
    rw [hmImage, if_pos hP]
    refine runAll_composes h.capacity fun d hd u hcfg _ => ?_
    obtain ⟨hdca, hstatus, hserver⟩ := h.hmStatus (List.ne_nil_of_mem hd) hP
    exact hmStatusFrames_composes h.legal hdca hstatus hserver d hcfg
  · rw [hmImage, enabled_eq_nil (k := .hm) (not_not.mp hhm), List.flatMap_nil, ite_self]

/-- LVDT block (47_buslist R266), the countdown at 0. -/
theorem lvdtPart_composes {T : Topology} {P : Profile} {inp : Inputs} {s : State} {i : Subnet} (h : Composable T P inp s i)
    (hclock : s.lvdtClock = 0) (hoff : s.sub[i].lvdtOffset = none) (hsched : s.sub[i].hmSched = []) :
    Composes (if T[i].hm ≠ [] then lvdtSection T P i s else .ok s) s (lvdtImage T P s i)
      (s.sub.set i { s.sub[i] with
        lvdtOffset := if !(s.enabled T .hm i).isEmpty && P.hmLVDT then some s.cursor else none,
        hmSched := if P.hmLVDT then s.enabled T .hm i else [] }) 0 := by
  by_cases hall : P.hmLVDT = true ∧ s.enabled T .hm i ≠ []
  · have hhm : T[i].hm ≠ [] := fun hnil => hall.2 (enabled_eq_nil (k := .hm) hnil)
    unfold lvdtSection
    rw [if_pos hhm, if_pos hall, lvdtImage, if_pos hall.1]
    have hrun := runAll_composes (s := s.modSub i fun r => { r with lvdtOffset := some s.cursor, hmSched := s.enabled T .hm i })
      (xs := s.enabled T .hm i) h.capacity fun d _ u hcfg hclk =>
        lvdtSlot_composes h.legal (h.lvdt hall.2 hall.1) (hclk.trans hclock) d hcfg
    simp only [hall.1, List.isEmpty_eq_false_iff.mpr hall.2, Bool.not_false, Bool.and_true, if_true]
    exact hrun.of_modSub
  · have hnone : P.hmLVDT = false ∨ s.enabled T .hm i = [] := by
      rwa [not_and_or, not_not, Bool.not_eq_true] at hall
    have himage : lvdtImage T P s i = [] := by
      rcases hnone with hnone | hnone <;> simp [lvdtImage, hnone]
    have hoff' : (!(s.enabled T .hm i).isEmpty && P.hmLVDT) = false := by
      rcases hnone with hnone | hnone <;> simp [hnone]
    have hsched' : (if P.hmLVDT then s.enabled T .hm i else []) = [] := by
      rcases hnone with hnone | hnone <;> simp [hnone]
    have hnil := composes_nil s
    rw [← set_self s.sub i] at hnil
    unfold lvdtSection
    rw [if_neg hall, ite_self, himage, hoff', hsched', ← hsched, if_neg Bool.false_ne_true, ← hoff]
    exact hnil

/-! ## One block -/

/-- What stands between the opening and the closing of a block. -/
def blockBody (T : Topology) (P : Profile) (inp : Inputs) (i : Subnet) (s : State) : Run := do
  let s ← if T[i].fa ≠ [] then faSection T P inp i s else .ok s
  let s ← if T[i].hp ≠ [] then hpSection T P inp i s else .ok s
  let s ← if T[i].hm ≠ [] then hmSection T P i s else .ok s
  if T[i].hm ≠ [] then lvdtSection T P i s else .ok s

theorem bind_assoc_run {r : Run} {f g : State → Run} : r >>= f >>= g = r >>= fun s => f s >>= g := by
  cases r <;> rfl

theorem blockBody_eq (T : Topology) (P : Profile) (inp : Inputs) (i : Subnet) (s : State) :
    blockBody T P inp i s = (if T[i].fa ≠ [] then faSection T P inp i s else .ok s) >>= fun s =>
      (if T[i].hp ≠ [] then hpSection T P inp i s else .ok s) >>= fun s =>
        (if T[i].hm ≠ [] then hmSection T P i s else .ok s) >>= fun s =>
          if T[i].hm ≠ [] then lvdtSection T P i s else .ok s := by
  unfold blockBody
  simp only [ite_bind]

theorem buildSubnet_eq (T : Topology) (P : Profile) (inp : Inputs) (i : Subnet) (s : State) :
    buildSubnet T P inp i s = openSubnet i s >>= fun u => blockBody T P inp i u >>= closeSubnet := by
  simp only [blockBody_eq, bind_assoc_run]
  unfold buildSubnet
  simp only [ite_bind]

/-- The registers of one subnet when its block starts at an index, the force gather reading free values from `n` on. -/
def regsFrom (T : Topology) (P : Profile) (inp : Inputs) (s : State) (i : Subnet) (start n : Nat) : SubnetRegs :=
  { rr := 0,
    fdOffset := offsetIf (!T[i].fa.isEmpty && P.faForceDemand) start [],
    pollOffset := offsetIf (!(s.enabled T .fa i).isEmpty && P.faStatus) start
      (forceImage T P inp s i n ++ faStatusImage T P s i),
    stepOffset := offsetIf (!T[i].hp.isEmpty && decide (P.hpBroadcast ≠ .none)) start (faImage T P inp s i n),
    lvdtOffset := offsetIf (!(s.enabled T .hm i).isEmpty && P.hmLVDT) start
      (faImage T P inp s i n ++ hpImage T P inp s i ++ hmImage T P s i),
    pollData := if P.faStatus then (s.enabled T .fa i).head?.map (·.dataIndex) else none,
    hmSched := if P.hmLVDT then s.enabled T .hm i else [] }

theorem builtRegs_eq (T : Topology) (P : Profile) (inp : Inputs) (s : State) (i : Subnet) :
    builtRegs T P inp s i = regsFrom T P inp s i (blockStart T P inp s i) (s.freeCount + i.val) := rfl

/-- The words between the opening and the closing of a block (47_buslist R262 to R266). -/
theorem blockBody_composes {T : Topology} {P : Profile} {inp : Inputs} {s : State} {i : Subnet} (h : Composable T P inp s i)
    (hclock : s.lvdtClock = 0) (hsub : s.sub[i] = SubnetRegs.initial) {start : Nat} (hstart : s.cursor.toNat = start + 3) :
    Composes (blockBody T P inp i s) s
      (faImage T P inp s i s.freeCount ++ hpImage T P inp s i ++ hmImage T P s i ++ lvdtImage T P s i)
      (s.sub.set i (regsFrom T P inp s i start s.freeCount)) 0 := by
  rw [blockBody_eq, List.append_assoc, List.append_assoc]
  refine (faPart_composes h hsub).seq h.capacity fun m1 e1 b1 hcur1 => ?_
  set u1 := s.composed m1 (faImage T P inp s i s.freeCount).length (s.sub.set i (faRegs T P inp s i)) e1 b1 0
  have hu1 : u1.sub[i] = faRegs T P inp s i := getElem_set_sub
  have h1 : Composable T P inp u1 i := ⟨h.legal, h.steps, h.commands⟩
  refine (hpPart_composes h1 (by rw [hu1]; rfl)).seq h.capacity fun m2 e2 b2 hcur2 => ?_
  set r2 : SubnetRegs := { u1.sub[i] with
    stepOffset := if !T[i].hp.isEmpty && decide (P.hpBroadcast ≠ .none) then some u1.cursor else none } with hr2
  set u2 := u1.composed m2 (hpImage T P inp s i).length (u1.sub.set i r2) e2 b2 0
  have hu2 : u2.sub[i] = r2 := getElem_set_sub
  have h2 : Composable T P inp u2 i := ⟨h.legal, h.steps, h.commands⟩
  refine (hmPart_composes h2).seq h.capacity fun m3 e3 b3 hcur3 => ?_
  set u3 := u2.composed m3 (hmImage T P s i).length u2.sub e3 b3 0
  have hu3 : u3.sub[i] = r2 := hu2
  have h3 : Composable T P inp u3 i := ⟨h.legal, h.steps, h.commands⟩
  have hlast := lvdtPart_composes h3 hclock (by rw [hu3, hr2, hu1]; rfl) (by rw [hu3, hr2, hu1]; rfl)
  have hc1 : u1.cursor = BitVec.ofNat 16 (start + 3 + (faImage T P inp s i s.freeCount).length) := by
    rw [← hstart, ← hcur1, BitVec.ofNat_toNat, BitVec.setWidth_eq]
  have hc3 : u3.cursor = BitVec.ofNat 16 (start + 3
      + (faImage T P inp s i s.freeCount ++ hpImage T P inp s i ++ hmImage T P s i).length) := by
    have hlen : start + 3 + (faImage T P inp s i s.freeCount ++ hpImage T P inp s i ++ hmImage T P s i).length
        = u3.cursor.toNat := by
      rw [hcur3, hcur2, hcur1, hstart, List.length_append, List.length_append, Nat.add_assoc, Nat.add_assoc, Nat.add_assoc,
        Nat.add_assoc, Nat.add_assoc]
    rw [hlen, BitVec.ofNat_toNat, BitVec.setWidth_eq]
  have hregs : { u3.sub[i] with
      lvdtOffset := if !(u3.enabled T .hm i).isEmpty && P.hmLVDT then some u3.cursor else none,
      hmSched := if P.hmLVDT then u3.enabled T .hm i else [] } = regsFrom T P inp s i start s.freeCount := by
    have hc0 : s.cursor = BitVec.ofNat 16 (start + 3) := by rw [← hstart, BitVec.ofNat_toNat, BitVec.setWidth_eq]
    rw [hu3, hr2, hu1, hc1, hc3, faRegs, regsFrom, hstart, hc0]
    rfl
  have hset : ∀ r, u3.sub.set i r = s.sub.set i r := fun r => set_set_sub.trans set_set_sub
  rw [hregs, hset] at hlast
  exact hlast

/-! ### Opening and closing it -/

/-- The state `BUILD` opens a block in (47_buslist R250). -/
def State.opened (s : State) (i : Subnet) : State :=
  { s.placed [s.cfg.subnetCode[i], 0, s.cfg.swtrigWord] with openBlock := some (s.blockAt i) }

theorem openSubnet_ok {s : State} {i : Subnet} (hopen : s.openBlock = none) (hfit : Fits s 3) :
    openSubnet i s = .ok (s.opened i) :=
  openSubnet_eq_ok.mpr ⟨hopen, hfit, rfl⟩

theorem opened_cursor_toNat {s : State} (i : Subnet) (hfit : Fits s 3) : (s.opened i).cursor.toNat = s.cursor.toNat + 3 :=
  placed_cursor_toNat hfit.2

theorem blockImage_length (c : Config) (i : Subnet) (body : List Word) : (blockImage c i body).length = 3 + body.length + 1 := by
  simp only [blockImage, List.length_append, List.length_cons, List.length_nil]

/-- The three opening words with the length in its place, the body, the IRQ trigger. -/
theorem blockImage_eq (c : Config) (i : Subnet) (body : List Word) :
    blockImage c i body = ([c.subnetCode[i], 0, c.swtrigWord] ++ body ++ [c.irqtrigWord]).set 1 (BitVec.ofNat 16 (body.length + 2)) :=
  rfl

/-- Closing a block that was opened at `s` and holds `body`: the IRQ trigger, and the length in its place (47_buslist R251). -/
theorem closeSubnet_composed {s : State} {i : Subnet} {body : List Word} {m : Memory} {R : Vector SubnetRegs 5}
    {e b : Banks (BitVec 3)} (hopen : s.openBlock = none) (hfit : Fits s (blockImage s.cfg i body).length)
    (hbody : Stores (s.opened i).mem m (s.cursor.toNat + 3) body) :
    ∃ m', Stores s.mem m' s.cursor.toNat (blockImage s.cfg i body)
      ∧ closeSubnet ((s.opened i).composed m body.length R e b 0)
        = .ok (s.composed m' (blockImage s.cfg i body).length R e b 1) := by
  have hlen := blockImage_length s.cfg i body
  obtain ⟨hcap, hlast⟩ := hfit
  have hthree : Fits s 3 := ⟨by omega, by omega⟩
  have hindex := blockAt_lenIndex_toNat i hthree
  have hstart := opened_cursor_toNat i hthree
  set u := (s.opened i).composed m body.length R e b 0 with hu
  have hcfg : u.cfg.capacity = s.cfg.capacity := rfl
  have hcursor : u.cursor.toNat = s.cursor.toNat + 3 + body.length := by
    rw [hu, composed_cursor_toNat (by omega), hstart]
  have hone : Fits u 1 := ⟨by omega, by omega⟩
  have hclose := (closeSubnet_eq_ok (s := u)).mpr ⟨s.blockAt i, rfl, hone, by omega, rfl⟩
  have hblock : blockLength (u.placed [u.cfg.irqtrigWord]) (s.blockAt i).lenIndex = BitVec.ofNat 16 (body.length + 2) := by
    have hvalue := blockLength_placed_toNat (w := u.cfg.irqtrigWord) hone (a := (s.blockAt i).lenIndex) (by omega)
    refine BitVec.eq_of_toNat_eq (hvalue.trans ?_)
    rw [BitVec.toNat_ofNat]
    omega
  have hwords : Stores s.mem (u.placed [u.cfg.irqtrigWord]).mem s.cursor.toNat
      ([s.cfg.subnetCode[i], 0, s.cfg.swtrigWord] ++ body ++ [s.cfg.irqtrigWord]) := by
    have hopened := stores_writeAll s.mem s.cursor.toNat [s.cfg.subnetCode[i], 0, s.cfg.swtrigWord]
    refine (hopened.append hbody).append ?_
    have hat : s.cursor.toNat + ([s.cfg.subnetCode[i], 0, s.cfg.swtrigWord] ++ body).length = u.cursor.toNat := by
      rw [hcursor, List.length_append, ← Nat.add_assoc]
      rfl
    rw [hat]
    exact stores_writeAll u.mem u.cursor.toNat [s.cfg.irqtrigWord]
  refine ⟨_, blockImage_eq s.cfg i body ▸ hwords.write (k := 1) (by simp) (BitVec.ofNat 16 (body.length + 2)), ?_⟩
  have hend : BitVec.ofNat 16 (u.cursor.toNat + 1) = BitVec.ofNat 16 (s.cursor.toNat + (blockImage s.cfg i body).length) := by
    rw [hcursor, hlen, Nat.add_assoc, Nat.add_assoc, ← Nat.add_assoc 3]
  rw [hclose, hblock, hindex, State.composed, ← hend, hopen]
  rfl

/-- One block, from the registers `BUILD` cleared (47_buslist R262). -/
theorem buildSubnet_composes {T : Topology} {P : Profile} {inp : Inputs} {s : State} {i : Subnet} (h : Composable T P inp s i)
    (hclock : s.lvdtClock = 0) (hopen : s.openBlock = none) (hsub : s.sub[i] = SubnetRegs.initial) :
    Composes (buildSubnet T P inp i s) s
      (blockImage s.cfg i
        (faImage T P inp s i s.freeCount ++ hpImage T P inp s i ++ hmImage T P s i ++ lvdtImage T P s i))
      (s.sub.set i (regsFrom T P inp s i s.cursor.toNat s.freeCount)) 1 := by
  have hc := h.capacity
  rw [buildSubnet_eq]
  set body := faImage T P inp s i s.freeCount ++ hpImage T P inp s i ++ hmImage T P s i ++ lvdtImage T P s i
  have hlen := blockImage_length s.cfg i body
  by_cases hthree : s.cursor.toNat + 3 ≤ s.cfg.capacity
  swap
  · exact ⟨fun hfit => absurd hfit (by omega), fun _ _ =>
      bind_eq_error.mpr (.inl (openSubnet_overrun hopen hc (Nat.lt_of_not_le hthree)))⟩
  have hfits : Fits s 3 := ⟨hthree, hthree.trans hc⟩
  have hcur := opened_cursor_toNat i hfits
  have hbody : Composes (blockBody T P inp i (s.opened i)) (s.opened i) body
      (s.sub.set i (regsFrom T P inp s i s.cursor.toNat s.freeCount)) 0 :=
    blockBody_composes (s := s.opened i) ⟨h.legal, h.steps, h.commands⟩ hclock hsub hcur
  have hcap : (s.opened i).cfg.capacity = s.cfg.capacity := rfl
  rw [openSubnet_ok hopen hfits]
  constructor
  · intro hfit
    obtain ⟨m, e, b, hstores, hrun⟩ := hbody.ok (by omega)
    rw [hcur] at hstores
    obtain ⟨m', hstores', hclose⟩ := closeSubnet_composed hopen ⟨hfit, hfit.trans hc⟩ hstores
    exact ⟨m', e, b, hstores', bind_eq_ok.mpr ⟨_, rfl, bind_eq_ok.mpr ⟨_, hrun, hclose⟩⟩⟩
  · intro _ hover
    refine bind_eq_error.mpr (.inr ⟨_, rfl, bind_eq_error.mpr ?_⟩)
    by_cases hfull : s.cfg.capacity < s.cursor.toNat + 3 + body.length
    · exact .inl (hbody.overrun (by omega) (by omega))
    · obtain ⟨m, e, b, -, hrun⟩ := hbody.ok (by omega)
      refine .inr ⟨_, hrun, closeSubnet_overrun rfl ?_⟩
      rw [composed_cursor_toNat (by omega)]
      exact (by omega : s.cfg.capacity ≤ (s.opened i).cursor.toNat + body.length)

/-! ## Five blocks -/

/-- `BUILD` under way from `s`: the blocks of the subnets `pre` are composed. -/
structure Blocks (T : Topology) (P : Profile) (inp : Inputs) (s : State) (pre : List Subnet) (u : State) : Prop where
  cfg : u.cfg = s.cfg
  bcast : u.bcast = s.bcast
  disabled : u.disabled = s.disabled
  clock : u.lvdtClock = 0
  closed : u.openBlock = none
  free : u.freeCount = s.freeCount + pre.length
  cursor : u.cursor.toNat = (pre.flatMap (subnetImage T P inp s)).length
  sub : u.sub = Vector.ofFn fun j => if j ∈ pre then builtRegs T P inp s j else SubnetRegs.initial

/-- The subnets come in order. -/
theorem subnets_split {pre xs : List Subnet} {i : Subnet} (h : subnets = pre ++ i :: xs) :
    pre.length = i.val ∧ subnets.take i.val = pre := by
  have hall : ∀ n < 5, ∀ j : Subnet, subnets[n]? = some j → n = j.val := by decide
  have hlen : pre.length + (xs.length + 1) = 5 := by
    have hfive := congrArg List.length h
    rw [List.length_append, List.length_cons] at hfive
    exact hfive.symm
  have hval : pre.length = i.val := hall _ (by omega) i (by rw [h, List.getElem?_append_right (Nat.le_refl _), Nat.sub_self]; rfl)
  exact ⟨hval, by rw [← hval, h, List.take_left]⟩

section Congr

variable {T : Topology} {P : Profile} {inp : Inputs} {s u : State} (hcfg : u.cfg = s.cfg) (hbcast : u.bcast = s.bcast)
  (hdisabled : u.disabled = s.disabled)
include hcfg hbcast hdisabled

/-! What a block holds is the same for every state of a `BUILD` under way. -/

omit hdisabled in
theorem forceImage_congr (i : Subnet) (n : Nat) : forceImage T P inp u i n = forceImage T P inp s i n := by
  rw [forceImage, forceImage, hcfg, hbcast]

omit hbcast in
theorem faStatusImage_congr (i : Subnet) : faStatusImage T P u i = faStatusImage T P s i := by
  rw [faStatusImage, faStatusImage, hcfg, State.enabled_congr hdisabled]

theorem faImage_congr (i : Subnet) (n : Nat) : faImage T P inp u i n = faImage T P inp s i n := by
  rw [faImage, faImage, forceImage_congr hcfg hbcast, faStatusImage_congr hcfg hdisabled, pollImage, pollImage, hcfg,
    State.enabled_congr hdisabled]

theorem hpImage_congr (i : Subnet) : hpImage T P inp u i = hpImage T P inp s i := by
  rw [hpImage, hpImage, hcfg, hbcast, State.enabled_congr hdisabled]

omit hbcast in
theorem hmImage_congr (i : Subnet) : hmImage T P u i = hmImage T P s i := by
  rw [hmImage, hmImage, hcfg, State.enabled_congr hdisabled]

omit hbcast in
theorem lvdtImage_congr (i : Subnet) : lvdtImage T P u i = lvdtImage T P s i := by
  rw [lvdtImage, lvdtImage, hcfg, State.enabled_congr hdisabled]

theorem regsFrom_congr (i : Subnet) (start n : Nat) : regsFrom T P inp u i start n = regsFrom T P inp s i start n := by
  rw [regsFrom, regsFrom, forceImage_congr hcfg hbcast, faStatusImage_congr hcfg hdisabled,
    faImage_congr hcfg hbcast hdisabled, hpImage_congr hcfg hbcast hdisabled, hmImage_congr hcfg hdisabled,
    State.enabled_congr hdisabled, State.enabled_congr hdisabled]

end Congr

/-- The next block of a `BUILD` under way. -/
theorem Blocks.next {T : Topology} {P : Profile} {inp : Inputs} {s u : State} {pre xs : List Subnet} {i : Subnet}
    (h : Composable T P inp s i) (hu : Blocks T P inp s pre u) (hall : subnets = pre ++ i :: xs) :
    Composes (buildSubnet T P inp i u) u (subnetImage T P inp s i)
      (Vector.ofFn fun j => if j ∈ pre ++ [i] then builtRegs T P inp s j else SubnetRegs.initial) 1 := by
  obtain ⟨hcfg, hbcast, hdisabled, hclock, hclosed, hfree, hcursor, hsub⟩ := hu
  obtain ⟨hlen, htake⟩ := subnets_split hall
  have hnodup := nodup_subnets
  rw [hall] at hnodup
  have hi : i ∉ pre := fun hmem => (List.disjoint_of_nodup_append hnodup) hmem List.mem_cons_self
  have hcleared : u.sub[i] = SubnetRegs.initial := by
    rw [hsub]
    simp [hi]
  have hready : Composable T P inp u i := by
    refine ⟨hcfg ▸ h.legal, hcfg ▸ h.steps, fun k hk => hcfg ▸ h.commands k ?_⟩
    simpa only [buildCommandsOn, State.enabled_congr hdisabled] using hk
  have hblock := buildSubnet_composes hready hclock hclosed hcleared
  have himage : blockImage u.cfg i
      (faImage T P inp u i u.freeCount ++ hpImage T P inp u i ++ hmImage T P u i ++ lvdtImage T P u i) = subnetImage T P inp s i := by
    rw [faImage_congr hcfg hbcast hdisabled, hpImage_congr hcfg hbcast hdisabled, hmImage_congr hcfg hdisabled,
      lvdtImage_congr hcfg hdisabled, hcfg, hfree, hlen]
    rfl
  have hregs : regsFrom T P inp u i u.cursor.toNat u.freeCount = builtRegs T P inp s i := by
    rw [regsFrom_congr hcfg hbcast hdisabled, hfree, hlen, hcursor, builtRegs_eq, blockStart, htake]
  have hset : u.sub.set i (builtRegs T P inp s i)
      = Vector.ofFn fun j => if j ∈ pre ++ [i] then builtRegs T P inp s j else SubnetRegs.initial := by
    refine Vector.ext fun n hn => ?_
    rw [Vector.getElem_set, Vector.getElem_ofFn, hsub, Vector.getElem_ofFn]
    by_cases hni : i.val = n
    · subst hni
      simp
    · have hne : (⟨n, hn⟩ : Subnet) ≠ i := fun h => hni (congrArg Fin.val h).symm
      simp only [hni, if_false, List.mem_append, List.mem_singleton, hne, or_false]
  rwa [himage, hregs, hset] at hblock

/-- The state after the next block is a `BUILD` under way, one block further. -/
theorem Blocks.composed {T : Topology} {P : Profile} {inp : Inputs} {s u : State} {pre : List Subnet} {i : Subnet}
    (hu : Blocks T P inp s pre u) {m : Memory} {R : Vector SubnetRegs 5} {e b : Banks (BitVec 3)}
    (hcur : (u.composed m (subnetImage T P inp s i).length R e b 1).cursor.toNat
      = u.cursor.toNat + (subnetImage T P inp s i).length)
    (hR : R = Vector.ofFn fun j => if j ∈ pre ++ [i] then builtRegs T P inp s j else SubnetRegs.initial := by rfl) :
    Blocks T P inp s (pre ++ [i]) (u.composed m (subnetImage T P inp s i).length R e b 1) := by
  refine ⟨hu.cfg, hu.bcast, hu.disabled, hu.clock, hu.closed, ?_, ?_, hR⟩
  · rw [List.length_append, ← Nat.add_assoc, ← hu.free]
    rfl
  · rw [hcur, hu.cursor, List.flatMap_append, List.length_append, List.flatMap_singleton]

/-- The blocks left, from a `BUILD` under way. -/
theorem buildSubnets_composes {T : Topology} {P : Profile} {inp : Inputs} {s : State} (h : ∀ i, Composable T P inp s i)
    {xs pre : List Subnet} {u : State} (hall : subnets = pre ++ xs) (hu : Blocks T P inp s pre u) :
    Composes (runAll (buildSubnet T P inp) xs u) u (xs.flatMap (subnetImage T P inp s))
      (Vector.ofFn fun j => if j ∈ pre ++ xs then builtRegs T P inp s j else SubnetRegs.initial) xs.length := by
  induction xs generalizing pre u with
  | nil =>
    rw [List.append_nil, ← hu.sub]
    exact composes_nil u
  | cons i xs ih =>
    rw [List.append_cons] at hall ⊢
    rw [List.length_cons, Nat.add_comm]
    have hnext := hu.next (h i) (List.append_cons pre i xs ▸ hall)
    exact hnext.bind (h i).capacity (fun m e b hcur => ih hall (hu.composed hcur)) hu.cfg

/-! ## `BUILD` -/

theorem BuildReady.composable {s : State} {T : Topology} {x : Variant} {inp : Inputs} (h : BuildReady s T x inp) (i : Subnet) :
    Composable T (s.cfg.profiles.profile x) inp s i := by
  obtain ⟨hlegal, ⟨-, -, -, -, hsteps⟩, hcommands⟩ := h
  exact ⟨hlegal, hsteps, fun k hk => hcommands k (List.mem_flatMap.mpr ⟨i, mem_subnets i, hk⟩)⟩

theorem buildSchedule_ready {s : State} {T : Topology} {v : Byte} {x : Variant} {inp : Inputs} (h : BuildReady s T x inp)
    (hv : variantOf v = some x) : buildSchedule v inp s = buildRun T x inp s := by
  obtain ⟨-, hadm, hcommands⟩ := h
  rw [buildSchedule_admitted hadm hv, callsVerdict_ready (fillable_buildCalls hadm.2.2.2)
    (by rwa [map_fst_buildCalls])]
  rfl

/-- The state `BUILD` clears is one with no block composed. -/
theorem buildInit_blocks {s : State} {T : Topology} {x : Variant} {inp : Inputs} (h : BuildReady s T x inp) :
    Blocks T (s.cfg.profiles.profile x) inp s [] (buildInit x s) := by
  obtain ⟨-, ⟨-, -, hopen, -⟩, -⟩ := h
  refine ⟨rfl, rfl, rfl, rfl, hopen, rfl, rfl, Vector.ext fun n hn => ?_⟩
  rw [Vector.getElem_ofFn, if_neg List.not_mem_nil]
  exact Vector.getElem_replicate hn

/-- The blocks of a ready `BUILD`, from the state it clears. -/
theorem buildRun_composes {s : State} {T : Topology} {x : Variant} {inp : Inputs} (h : BuildReady s T x inp) :
    Composes (runAll (buildSubnet T (s.cfg.profiles.profile x) inp) subnets (buildInit x s)) (buildInit x s)
      (scheduleImage T (s.cfg.profiles.profile x) inp s)
      (Vector.ofFn (builtRegs T (s.cfg.profiles.profile x) inp s)) 5 := by
  have hall := buildSubnets_composes h.composable (xs := subnets) rfl (buildInit_blocks h)
  simp only [List.nil_append, mem_subnets, if_true] at hall
  exact hall

/-! ### How many words -/

theorem length_flatMap_const {α β : Type} {xs : List α} {f : α → List β} {n : Nat} (h : ∀ x ∈ xs, (f x).length = n) :
    (xs.flatMap f).length = xs.length * n := by
  rw [List.length_flatMap, List.map_congr_left h, List.map_const', List.sum_replicate, smul_eq_mul]

theorem statusImage_length {c : Config} {k : CmdType} (hk : tailKind k = some .unicast) (h : CommandReady c k) (d : ILCMap) :
    (statusImage c k d).length = frameWords c k := by
  obtain ⟨p, hp⟩ := scheduledStatus_ready hk h
  exact scheduledImage_length hp

theorem length_ite_nil {α : Type} {b : Bool} {xs : List α} {n : Nat} (h : b = true → xs.length = n) :
    (if b then xs else []).length = whenHolds b n := by
  unfold whenHolds
  cases b
  · rfl
  · exact h rfl

section Lengths

variable {T : Topology} {P : Profile} {inp : Inputs} {s : State} {i : Subnet} (h : Composable T P inp s i)
include h

theorem forceImage_length (hfa : T[i].fa ≠ []) (n : Nat) :
    (forceImage T P inp s i n).length = whenHolds P.faForceDemand (frameWords s.cfg .broadcastForceDemand + 1) := by
  refine length_ite_nil fun hP => ?_
  obtain ⟨p, hp⟩ := frameParts_ready (fillable_force s.cfg n i s.bcast inp T[i].fa) (h.force hfa hP)
  rw [List.length_append, scheduledImage_length hp]
  rfl

theorem faStatusImage_length :
    (faStatusImage T P s i).length = whenHolds P.faStatus ((s.enabled T .fa i).length * frameWords s.cfg .pneumaticForceStatus) :=
  length_ite_nil fun hP => length_flatMap_const fun d hd =>
    statusImage_length rfl (h.faStatus (List.ne_nil_of_mem hd) hP).1 d

theorem pollImage_length :
    (pollImage T P s i).length
      = whenHolds P.faStatus (whenHolds (!(s.enabled T .fa i).isEmpty) (frameWords s.cfg .reportServerStatus)) := by
  refine length_ite_nil fun hP => ?_
  cases hds : s.enabled T .fa i with
  | nil => rfl
  | cons d ds =>
    rw [List.head?_cons, Option.toList_some, List.flatMap_singleton]
    exact statusImage_length rfl (h.faStatus (by rw [hds]; exact List.cons_ne_nil d ds) hP).2 d

theorem hpBroadcastImage_length (hhp : T[i].hp ≠ []) : (hpBroadcastImage s.cfg P s.bcast inp).length = hpWords s.cfg P := by
  unfold hpBroadcastImage hpWords
  cases hk : hpCall P s.bcast inp with
  | none =>
    have hcommand : hpCommand P = none := by
      have hmap := map_fst_hpCall P s.bcast inp
      rw [hk] at hmap
      exact Option.toList_eq_nil_iff.mp hmap.symm
    rw [hcommand]
    rfl
  | some k =>
    obtain ⟨p, hp⟩ := frameParts_ready (fillable_hpCall h.steps hk) (h.hpBroadcast hhp (mem_hpCommand hk))
    rw [mem_hpCommand hk]
    exact scheduledImage_length hp

theorem faImage_length (n : Nat) :
    (faImage T P inp s i n).length
      = whenHolds (!T[i].fa.isEmpty && P.faForceDemand) (frameWords s.cfg .broadcastForceDemand + 1)
        + whenHolds P.faStatus ((s.enabled T .fa i).length * frameWords s.cfg .pneumaticForceStatus
          + whenHolds (!(s.enabled T .fa i).isEmpty) (frameWords s.cfg .reportServerStatus)) := by
  rw [faImage]
  by_cases hfa : T[i].fa = []
  · rw [if_pos hfa, enabled_eq_nil (k := .fa) hfa, hfa]
    cases P.faStatus <;> simp [whenHolds]
  · have hnonempty : (!T[i].fa.isEmpty) = true := by simpa using hfa
    rw [if_neg hfa, List.length_append, List.length_append, forceImage_length h hfa, faStatusImage_length h, pollImage_length h,
      hnonempty, Bool.true_and, Nat.add_assoc]
    cases P.faStatus <;> rfl

theorem hpImage_length :
    (hpImage T P inp s i).length = whenHolds (!T[i].hp.isEmpty) (hpWords s.cfg P)
      + whenHolds P.hpStatus ((s.enabled T .hp i).length
        * (frameWords s.cfg .electromechanicalForceAndStatus + frameWords s.cfg .reportServerStatus)) := by
  rw [hpImage]
  by_cases hhp : T[i].hp = []
  · rw [if_pos hhp, enabled_eq_nil (k := .hp) hhp, hhp]
    simp [whenHolds]
  · have hnonempty : (!T[i].hp.isEmpty) = true := by simpa using hhp
    rw [if_neg hhp, List.length_append, hpBroadcastImage_length h hhp, hnonempty]
    refine congrArg _ (length_ite_nil fun hP => length_flatMap_const fun d hd => ?_)
    obtain ⟨hforce, hserver⟩ := h.hpStatus (List.ne_nil_of_mem hd) hP
    rw [List.length_append, statusImage_length rfl hforce, statusImage_length rfl hserver]

theorem hmImage_length :
    (hmImage T P s i).length = whenHolds P.hmStatus ((s.enabled T .hm i).length
      * (frameWords s.cfg .readDcaPressure + frameWords s.cfg .reportDcaStatus + frameWords s.cfg .reportServerStatus)) := by
  refine length_ite_nil fun hP => length_flatMap_const fun d hd => ?_
  obtain ⟨hdca, hstatus, hserver⟩ := h.hmStatus (List.ne_nil_of_mem hd) hP
  rw [List.length_append, List.length_append, statusImage_length rfl hdca, statusImage_length rfl hstatus,
    statusImage_length rfl hserver]

theorem lvdtImage_length :
    (lvdtImage T P s i).length = whenHolds P.hmLVDT ((s.enabled T .hm i).length * frameWords s.cfg .reportLvdt) :=
  length_ite_nil fun hP => length_flatMap_const fun d hd => statusImage_length rfl (h.lvdt (List.ne_nil_of_mem hd) hP) d

theorem subnetImage_length : (subnetImage T P inp s i).length = subnetWords s.cfg P s T i := by
  rw [subnetImage, blockImage_length, bodyImage, List.length_append, List.length_append, List.length_append, faImage_length h,
    hpImage_length h, hmImage_length h, lvdtImage_length h, subnetWords]
  omega

end Lengths

/-- The schedule has the words the capacity is compared with (70_reset_and_hazards R340). -/
theorem scheduleImage_length {s : State} {T : Topology} {x : Variant} {inp : Inputs} (h : BuildReady s T x inp) :
    (scheduleImage T (s.cfg.profiles.profile x) inp s).length = scheduleWords s T x := by
  rw [scheduleImage, scheduleWords, List.length_flatMap]
  exact congrArg List.sum (List.map_congr_left fun i _ => subnetImage_length (h.composable i))

/-- A schedule that fits is stored from index 0 on, and its length frozen. -/
theorem buildSchedule_stores {s : State} {T : Topology} {v : Byte} {x : Variant} {inp : Inputs} (h : BuildReady s T x inp)
    (hv : variantOf v = some x) (hfit : scheduleWords s T x ≤ s.cfg.capacity) :
    ∃ m e b, Stores s.mem m 0 (scheduleImage T (s.cfg.profiles.profile x) inp s)
      ∧ buildSchedule v inp s = .ok (buildFinish ((buildInit x s).composed m (scheduleWords s T x)
          (Vector.ofFn (builtRegs T (s.cfg.profiles.profile x) inp s)) e b 5)) := by
  have hlen := scheduleImage_length h
  obtain ⟨m, e, b, hstores, hrun⟩ := (buildRun_composes h).ok (by rw [hlen]; simpa using hfit)
  rw [hlen] at hrun
  refine ⟨m, e, b, hstores, ?_⟩
  rw [buildSchedule_ready h hv]
  exact bind_eq_ok.mpr ⟨_, hrun, rfl⟩

/-- Settles O43: the first piece without room stops the schedule. -/
theorem buildThatDoesNotFitOverruns : Obligations.BuildThatDoesNotFitOverruns := by
  intro s T v x inp hready hv hover
  have hrun := (buildRun_composes hready).overrun (Nat.zero_le _) (by rw [scheduleImage_length hready]; simpa using hover)
  have hsched : buildSchedule v inp s = .error (.fault .bufferOverrun) := by
    rw [buildSchedule_ready hready hv]
    exact bind_eq_error.mpr (.inl hrun)
  rw [exec_build, hsched, finish_fault]

end Sys2Proof.Machine
end

section
/-! What the broadcast frames carry (45_frame_factory R210; 47_buslist R258, R264): the gather puts the setpoints of each force
actuator into the slot of its address, and each field of the payload takes its values by name. -/

namespace Sys2Proof.Machine

/-! ## The gather -/

/-- What stands in one slot after the gather: the value of the force actuator whose slot it is, if there is one. -/
theorem foldl_slot {f : ForceArrays → ILCMap → ForceArrays} {view : ForceArrays → Option Int} {value : ILCMap → Int} {a : Nat}
    {fas : List ILCMap} (hsized : ∀ arr d, arr.Sized → (f arr d).Sized)
    (hhit : ∀ d ∈ fas, ∀ arr : ForceArrays, arr.Sized → d.address.toNat = a → view (f arr d) = some (value d))
    (hmiss : ∀ d ∈ fas, ∀ arr : ForceArrays, d.address.toNat ≠ a → view (f arr d) = view arr)
    (hdistinct : fas.Pairwise fun d e => d.address ≠ e.address) {arr : ForceArrays} (harr : arr.Sized) :
    view (fas.foldl f arr) = ((fas.find? fun d => decide (d.address.toNat = a)).map value).orElse fun _ => view arr := by
  induction fas generalizing arr with
  | nil => rfl
  | cons d ds ih =>
    obtain ⟨hd, hds⟩ := List.pairwise_cons.mp hdistinct
    have hrest := ih (fun e he => hhit e (List.mem_cons_of_mem d he)) (fun e he => hmiss e (List.mem_cons_of_mem d he)) hds
      (hsized arr d harr)
    rw [List.foldl_cons, hrest]
    by_cases hda : d.address.toNat = a
    · have hnone : (ds.find? fun e => decide (e.address.toNat = a)) = none := by
        refine List.find?_eq_none.mpr fun e he => ?_
        rw [decide_eq_true_eq]
        exact fun hea => hd e he (BitVec.eq_of_toNat_eq (hda.trans hea.symm))
      rw [hnone, List.find?_cons_of_pos (by simpa using hda), hhit d List.mem_cons_self arr harr hda]
      rfl
    · rw [List.find?_cons_of_neg (by simpa using hda), hmiss d List.mem_cons_self arr hda]

/-- A setpoint inside the list is read, whatever the free value. -/
theorem setpointAt_eq {xs : List Int} {z : Int} (hz : 0 ≤ z) (h : z.toNat < xs.length) (free : Int) :
    setpointAt xs z free = (xs[z.toNat]?).getD 0 := by
  rw [setpointAt, if_pos hz, List.getElem?_eq_getElem h]
  rfl

theorem setpointOf_eq (fas : List ILCMap) (xs : List Int) (index : ILCMap → Int) (a : Nat) :
    some (setpointOf fas xs index a)
      = ((fas.find? fun d => decide (d.address.toNat = a)).map fun d => (xs[(index d).toNat]?).getD 0).orElse fun _ => some 0 := by
  unfold setpointOf
  cases fas.find? fun d => decide (d.address.toNat = a) <;> rfl

section Gather

variable {inp : Inputs} {fas : List ILCMap} (h : GatherDefined inp fas) (n : Nat) (i : Subnet) {k : Nat}
include h

/-- A slot that starts at 0 and only the force actuator at one address writes has the setpoint of that address. -/
theorem gather_slot {view : ForceArrays → Option Int} {xs : List Int} {index : ILCMap → Int} {a : Nat}
    (hzero : view ForceArrays.zero = some 0)
    (hhit : ∀ d ∈ fas, ∀ arr : ForceArrays, arr.Sized → d.address.toNat = a →
      view (gatherOne n i inp arr d) = some ((xs[(index d).toNat]?).getD 0))
    (hmiss : ∀ d ∈ fas, ∀ arr : ForceArrays, d.address.toNat ≠ a → view (gatherOne n i inp arr d) = view arr) :
    view (gather n i inp fas) = some (setpointOf fas xs index a) := by
  have hfold := foldl_slot (fun arr d harr => gatherOne_sized harr d) hhit hmiss h.2 ForceArrays.sized_zero
  rwa [hzero, ← setpointOf_eq] at hfold

/-- Slot `k` of the single-axis array has the setpoint of address `k + 1`. -/
theorem gather_saaPrimary (hk : k < 16) :
    (gather n i inp fas).saaPrimary[k]? = some (setpointOf fas inp.primary (fun d => d.dataIndex) (k + 1)) := by
  have hrange := h.1
  refine gather_slot (view := fun arr => arr.saaPrimary[k]?) h n i ?_ (fun d hd arr harr hda => ?_) fun d hd arr hda => ?_
  · exact List.getElem?_replicate_of_lt hk
  · obtain ⟨-, -, hindex, -⟩ := hrange d hd
    have hset : d.address.toNat - 1 = k := by omega
    simp only [gatherOne, if_pos (by omega : d.address.toNat ≤ 16), hset]
    rw [List.getElem?_set_self (harr.saaPrimary ▸ hk), setpointAt_eq (Int.natCast_nonneg _) hindex]
  · obtain ⟨hlow, -⟩ := hrange d hd
    unfold gatherOne
    dsimp only
    split
    · exact List.getElem?_set_ne (by omega)
    · rfl

/-- Slot `k` of the dual-axis primary array has the setpoint of address `k + 17`. -/
theorem gather_daaPrimary (hk : k < 32) :
    (gather n i inp fas).daaPrimary[k]? = some (setpointOf fas inp.primary (fun d => d.dataIndex) (k + 17)) := by
  have hrange := h.1
  refine gather_slot (view := fun arr => arr.daaPrimary[k]?) h n i ?_ (fun d hd arr harr hda => ?_) fun d hd arr hda => ?_
  · exact List.getElem?_replicate_of_lt hk
  · obtain ⟨-, -, hindex, -⟩ := hrange d hd
    have hset : d.address.toNat - 17 = k := by omega
    simp only [gatherOne, if_neg (by omega : ¬ d.address.toNat ≤ 16), hset]
    rw [List.getElem?_set_self (harr.daaPrimary ▸ hk), setpointAt_eq (Int.natCast_nonneg _) hindex]
  · unfold gatherOne
    dsimp only
    split
    · rfl
    · exact List.getElem?_set_ne (by omega)

/-- Slot `k` of the dual-axis secondary array has the secondary setpoint of address `k + 17`. -/
theorem gather_daaSecondary (hk : k < 32) :
    (gather n i inp fas).daaSecondary[k]? = some (setpointOf fas inp.secondary (fun d => d.secondaryDataIndex) (k + 17)) := by
  have hrange := h.1
  refine gather_slot (view := fun arr => arr.daaSecondary[k]?) h n i ?_ (fun d hd arr harr hda => ?_) fun d hd arr hda => ?_
  · exact List.getElem?_replicate_of_lt hk
  · obtain ⟨-, -, -, hsecondary⟩ := hrange d hd
    obtain ⟨hpos, hindex⟩ := hsecondary (by omega)
    have hset : d.address.toNat - 17 = k := by omega
    simp only [gatherOne, if_neg (by omega : ¬ d.address.toNat ≤ 16), hset]
    rw [List.getElem?_set_self (harr.daaSecondary ▸ hk), setpointAt_eq hpos hindex]
  · unfold gatherOne
    dsimp only
    split
    · rfl
    · exact List.getElem?_set_ne (by omega)

end Gather

/-! ## Fields by name -/

/-- The elements of an array that a field names. -/
theorem slice_eq_map {xs : List Int} {first count m : Nat} {g : Nat → Int} (hlen : xs.length = m) (hfit : first + count ≤ m)
    (hg : ∀ k < m, xs[k]? = some (g k)) : slice xs first count = some ((List.range' first count).map g) := by
  rw [slice, if_pos (hlen ▸ hfit)]
  refine congrArg some (List.ext_getElem? fun j => ?_)
  by_cases hj : j < count
  · rw [List.getElem?_take_of_lt hj, List.getElem?_drop, hg _ (by omega), List.getElem?_map, List.getElem?_range' hj]
    simp
  · rw [List.getElem?_eq_none (by rw [List.length_take]; omega), List.getElem?_eq_none (by simp; omega)]

/-- The payload, field after field. -/
theorem bindNamed_eq {env : FieldArgs} {fs : List PayloadField} {values : PayloadField → List Int}
    (h : ∀ f ∈ fs, fieldValues env f = some (values f)) :
    bindNamed env fs = some (fs.flatMap fun f => (values f).flatMap (typedBytes f.type)) := by
  induction fs with
  | nil => rfl
  | cons f fs ih =>
    rw [bindNamed, h f List.mem_cons_self, ih fun g hg => h g (List.mem_cons_of_mem f hg)]
    rfl

/-- A frame carries what its fields take. -/
theorem carries_of_fields {c : Config} {k : CmdType} {a : Byte} {env : FieldArgs} {b : BitVec 8} {inp : Inputs} {fas : List ILCMap}
    (hready : CommandReady c k) (hfields : ∀ f, fieldOk c k f = true → fieldValues env f = some (carried b inp fas f)) :
    Carries c k a (scheduledImage c k a env) b inp fas := by
  intro e T he hT
  obtain ⟨hknown, hlong⟩ := hready
  obtain ⟨e', T', he', -, hok⟩ := commandKnown_iff.mp hknown
  obtain rfl : e' = e := Option.some.inj (he'.symm.trans he)
  have hbind := bindNamed_eq (env := env) (values := carried b inp fas) fun f hf => hfields f (List.all_eq_true.mp hok f hf)
  have hmax : T.toNat ≤ maxDuration := Nat.not_lt.mp fun hlt => hlong ⟨T, hT, hlt⟩
  rw [scheduledImage, frameParts_eq_ok.mpr ⟨e', T, _, he, hT, hbind, hmax, rfl⟩]
  cases e'.tail <;> rfl

theorem fieldValues_counter {env : FieldArgs} {f : PayloadField} {b : BitVec 8} (hname : f.name = .counter)
    (hcount : f.count = 1 ∧ f.type.oneByte = true) (henv : env.counter = some b) :
    fieldValues env f = some [(b.toNat : Int)] := by
  rw [fieldValues, hname]
  dsimp only
  rw [if_pos hcount, henv]
  rfl

/-- What the force demand carries (45_frame_factory R210). -/
theorem fieldValues_force {c : Config} {inp : Inputs} {fas : List ILCMap} (h : GatherDefined inp fas) (n : Nat) (i : Subnet)
    (b : BitVec 8) {f : PayloadField} (hf : fieldOk c .broadcastForceDemand f = true) :
    fieldValues (forceArgs n i b inp fas) f = some (carried b inp fas f) := by
  obtain ⟨hsaa, hdaa, hsec⟩ := gather_sized n i inp fas
  simp only [fieldOk, forceFieldOk] at hf
  unfold carried
  cases hname : f.name with
  | counter =>
    rw [hname, Bool.and_eq_true, decide_eq_true_eq] at hf
    exact fieldValues_counter hname hf rfl
  | slew =>
    rw [hname, decide_eq_true_eq] at hf
    rw [fieldValues, hname]
    exact if_pos hf
  | saaPrimary first =>
    rw [hname, decide_eq_true_eq] at hf
    rw [fieldValues, hname]
    exact slice_eq_map hsaa hf fun k hk => gather_saaPrimary h n i hk
  | daaPrimary first =>
    rw [hname, decide_eq_true_eq] at hf
    rw [fieldValues, hname]
    exact slice_eq_map hdaa hf fun k hk => gather_daaPrimary h n i hk
  | daaSecondary first =>
    rw [hname, decide_eq_true_eq] at hf
    rw [fieldValues, hname]
    exact slice_eq_map hsec hf fun k hk => gather_daaSecondary h n i hk
  | steps | other =>
    rw [hname] at hf
    exact nomatch hf

/-- What the step-motor frame carries (47_buslist R264). -/
theorem fieldValues_step {c : Config} {inp : Inputs} (hsteps : inp.steps.length = c.nHP) (b : BitVec 8) {f : PayloadField}
    (hf : fieldOk c .broadcastStepMotor f = true) : fieldValues (stepArgs b inp) f = some (carried b inp [] f) := by
  simp only [fieldOk, stepFieldOk] at hf
  unfold carried
  cases hname : f.name with
  | counter =>
    rw [hname, Bool.and_eq_true, decide_eq_true_eq] at hf
    exact fieldValues_counter hname hf rfl
  | steps first =>
    rw [hname, decide_eq_true_eq] at hf
    rw [fieldValues, hname]
    refine slice_eq_map hsteps hf fun k hk => ?_
    rw [← hsteps] at hk
    show inp.steps[k]? = _
    rw [List.getElem?_eq_getElem hk]
    rfl
  | slew | saaPrimary | daaPrimary | daaSecondary | other =>
    rw [hname] at hf
    exact nomatch hf

/-- What the freeze frame carries: the counter. -/
theorem fieldValues_freeze {c : Config} (inp : Inputs) (b : BitVec 8) {f : PayloadField}
    (hf : fieldOk c .broadcastFreezeSensor f = true) : fieldValues (freezeArgs b) f = some (carried b inp [] f) := by
  simp only [fieldOk, freezeFieldOk] at hf
  unfold carried
  cases hname : f.name with
  | counter =>
    rw [hname, Bool.and_eq_true, decide_eq_true_eq] at hf
    exact fieldValues_counter hname hf rfl
  | steps | slew | saaPrimary | daaPrimary | daaSecondary | other =>
    rw [hname] at hf
    exact nomatch hf

/-- The image of the frame that opens a hardpoint section. -/
theorem hpBroadcastImage_of_call {c : Config} {P : Profile} {b : BitVec 8} {inp : Inputs} {k : Call} (h : hpCall P b inp = some k) :
    hpBroadcastImage c P b inp = scheduledImage c k.1 addrBcastHP k.2 := by
  rw [hpBroadcastImage, h]

/-- Settles O42: the five blocks are composed as Machine/Image.lean says, and what the broadcast frames carry is what the gather and
the fields' names give them. -/
theorem buildWritesTheWholeSchedule : Obligations.BuildWritesTheWholeSchedule := by
  refine ⟨fun s T v x inp hready hv hfit => ⟨scheduleImage_length hready, ?_⟩, fun c P i n b inp fas => ⟨?_, ?_, ?_, ?_⟩⟩
  · obtain ⟨m, e, base, hstores, hrun⟩ := buildSchedule_stores hready hv hfit
    refine ⟨m, e, base, s.freeCount + 5, hstores, ?_⟩
    have hcursor : BitVec.ofNat 16 ((0#16).toNat + scheduleWords s T x) = BitVec.ofNat 16 (scheduleWords s T x) := by
      rw [BitVec.toNat_ofNat, Nat.zero_mod, Nat.zero_add]
    rw [exec_build, hrun, ← hcursor]
    rfl
  · exact fun hdefined hready => carries_of_fields hready fun f hf => fieldValues_force hdefined n i b hf
  · intro hP hsteps hready
    rw [hpBroadcastImage_of_call (by rw [hpCall, hP])]
    exact carries_of_fields hready fun f hf => fieldValues_step hsteps b hf
  · intro hP hready
    rw [hpBroadcastImage_of_call (by rw [hpCall, hP])]
    exact carries_of_fields hready fun f hf => fieldValues_freeze inp b hf
  · intro hP
    rw [hpBroadcastImage, hpCall_none hP]

end Sys2Proof.Machine
end

section
/-! The expected-response table after `BUILD` (47_buslist R263 to R266, R280): each section notes the counts of its own class, the
round-robin frame and the LVDT slots one response more, and no device stands on two subnets. -/

namespace Sys2Proof.Machine

/-! ## The two counts of a device -/

/-- The base count and the expected count of a device. -/
def State.entry (s : State) (k : DeviceClass) (j : Nat) : BitVec 3 × BitVec 3 := (s.baseOf k j, s.expOf k j)

theorem entry_congr {s t : State} (hbase : t.base = s.base) (hexp : t.exp = s.exp) (k : DeviceClass) (j : Nat) :
    t.entry k j = s.entry k j := by
  rw [State.entry, baseOf_congr hbase, expOf_congr hexp, State.entry]

theorem Move.banksSized {T : Topology} {b : Bool} {s t : State} (h : Move T b s t) (hs : BanksSized s) : BanksSized t := by
  cases h with
  | words | poked | sought | block | regs => exact hs
  | restored | expected => exact fun k => ⟨(Banks.bank_put_length _ _ _ _ _).trans (hs k).1, (hs k).2⟩
  | based =>
    exact fun k => ⟨(Banks.bank_put_length _ _ _ _ _).trans (hs k).1, (Banks.bank_put_length _ _ _ _ _).trans (hs k).2⟩

theorem Moves.banksSized {T : Topology} {b : Bool} {s t : State} (h : Moves T b s t) (hs : BanksSized s) : BanksSized t := by
  induction h with
  | refl => exact hs
  | tail _ hm ih => exact hm.banksSized ih

/-- Inside its bank a base count is the one written last. -/
theorem baseOf_of_put {s t : State} {k : DeviceClass} {i : Nat} {n : BitVec 3} (h : t.base = s.base.put k i n) {l : DeviceClass}
    {j : Nat} (hj : j < (s.base.bank l).length) : t.baseOf l j = if l = k ∧ j = i then n else s.baseOf l j :=
  expOf_of_put (s := { s with exp := s.base }) (t := { t with exp := t.base }) h hj

/-- Noting a count writes both entries of one device. -/
theorem setBase_entry {s : State} (hs : BanksSized s) {k l : DeviceClass} {i j : Nat} {n : BitVec 3} (hj : j < s.cfg.bankSize l) :
    (s.setBase k i n).entry l j = if l = k ∧ j = i then (n, n) else s.entry l j := by
  obtain ⟨hexp, hbase⟩ := hs l
  rw [State.entry, baseOf_of_put (t := s.setBase k i n) rfl (hbase ▸ hj), expOf_of_put (t := s.setBase k i n) rfl (hexp ▸ hj)]
  split <;> rfl

/-! ## Status frames -/

/-- What one frame after another leaves alone: the registers, the counts, the tables and the countdown. -/
structure SameCounts (s t : State) : Prop where
  cfg : t.cfg = s.cfg
  sub : t.sub = s.sub
  base : t.base = s.base
  exp : t.exp = s.exp
  disabled : t.disabled = s.disabled
  clock : t.lvdtClock = s.lvdtClock

theorem scheduled_sameCounts {k : CmdType} {a : Byte} {env : FieldArgs} {s t : State} (h : scheduled k a env s = .ok t) :
    SameCounts s t := by
  obtain ⟨ws, -, rfl⟩ := frameCmd_placed h
  exact ⟨rfl, rfl, rfl, rfl, rfl, rfl⟩

theorem SameCounts.trans {s t u : State} (h : SameCounts s t) (g : SameCounts t u) : SameCounts s u :=
  ⟨g.cfg.trans h.cfg, g.sub.trans h.sub, g.base.trans h.base, g.exp.trans h.exp, g.disabled.trans h.disabled,
    g.clock.trans h.clock⟩

/-- The status frames of a class, which note `n` responses of each device. -/
def Noting (f : ILCMap → State → Run) (k : DeviceClass) (n : BitVec 3) : Prop :=
  ∀ d s t, f d s = .ok t → ∃ u, SameCounts s u ∧ t = u.setBase k d.dataIndex n

theorem faStatusFrame_noting : Noting faStatusFrame .fa 1 := by
  intro d s t h
  obtain ⟨u, hu, h⟩ := bind_eq_ok.mp h
  cases h
  exact ⟨u, scheduled_sameCounts hu, rfl⟩

theorem hpStatusFrames_noting : Noting hpStatusFrames .hp 2 := by
  intro d s t h
  obtain ⟨u, hu, h⟩ := bind_eq_ok.mp h
  obtain ⟨v, hv, h⟩ := bind_eq_ok.mp h
  cases h
  exact ⟨v, (scheduled_sameCounts hu).trans (scheduled_sameCounts hv), rfl⟩

theorem hmStatusFrames_noting : Noting hmStatusFrames .hm 3 := by
  intro d s t h
  obtain ⟨u, hu, h⟩ := bind_eq_ok.mp h
  obtain ⟨v, hv, h⟩ := bind_eq_ok.mp h
  obtain ⟨w, hw, h⟩ := bind_eq_ok.mp h
  cases h
  exact ⟨w, ((scheduled_sameCounts hu).trans (scheduled_sameCounts hv)).trans (scheduled_sameCounts hw), rfl⟩

theorem SameCounts.banksSized {s t : State} (h : SameCounts s t) (hs : BanksSized s) : BanksSized t := fun k => by
  rw [h.exp, h.base, h.cfg]
  exact hs k

/-- Status frames note their devices, and no other. -/
theorem Noting.entry {f : ILCMap → State → Run} {k : DeviceClass} {n : BitVec 3} (hf : Noting f k n) {ds : List ILCMap}
    {s t : State} (hs : BanksSized s) (h : runAll f ds s = .ok t) {l : DeviceClass} {j : Nat} (hj : j < s.cfg.bankSize l) :
    t.entry l j = if l = k ∧ hasIndex ds j = true then (n, n) else s.entry l j := by
  have hstep : ∀ d u v, (BanksSized u ∧ u.cfg = s.cfg) → f d u = .ok v → (BanksSized v ∧ v.cfg = s.cfg)
      ∧ v.entry l j = (if l = k ∧ j = d.dataIndex then some (n, n) else none).getD (u.entry l j) := by
    rintro d u v ⟨hu, hcfg⟩ huv
    obtain ⟨w, hw, rfl⟩ := hf d u v huv
    have hwsized := hw.banksSized hu
    refine ⟨⟨fun m => ?_, hw.cfg.trans hcfg⟩, ?_⟩
    · exact ⟨(Banks.bank_put_length _ _ _ _ _).trans (hwsized m).1, (Banks.bank_put_length _ _ _ _ _).trans (hwsized m).2⟩
    · rw [setBase_entry hwsized (by rwa [hw.cfg, hcfg]), entry_congr hw.base hw.exp]
      split <;> rfl
  obtain ⟨-, ⟨d, hd, hhit⟩ | ⟨hnone, hkeep⟩⟩ := runAll_entry hstep ⟨hs, rfl⟩ h
  · split at hhit
    · rename_i hdj
      rw [if_pos ⟨hdj.1, hasIndex_iff.mpr ⟨d, hd, hdj.2.symm⟩⟩]
      exact (Option.some.inj hhit).symm
    · exact nomatch hhit
  · rw [hkeep, if_neg]
    rintro ⟨hk, hslot⟩
    obtain ⟨d, hd, hdj⟩ := hasIndex_iff.mp hslot
    exact nomatch (if_pos ⟨hk, hdj.symm⟩).symm.trans (hnone d hd)

theorem Noting.sub {f : ILCMap → State → Run} {k : DeviceClass} {n : BitVec 3} (hf : Noting f k n) {ds : List ILCMap}
    {s t : State} (h : runAll f ds s = .ok t) : t.sub = s.sub :=
  runAll_keeps (fun u => u.sub = s.sub) (fun d u v hu huv => by
    obtain ⟨w, hw, rfl⟩ := hf d u v huv
    exact hw.sub.trans hu) ds s t rfl h

/-! ## The sections of a block -/

theorem buildForce_entry {T : Topology} {inp : Inputs} {i : Subnet} {s t : State} (h : buildForce T inp i s = .ok t)
    (k : DeviceClass) (j : Nat) : t.entry k j = s.entry k j ∧ t.sub[i].rr = s.sub[i].rr := by
  obtain ⟨u, hu, h⟩ := bind_eq_ok.mp h
  obtain ⟨-, rfl⟩ := emit_eq_ok.mp h
  have hsame := scheduled_sameCounts hu
  refine ⟨entry_congr (s := s) hsame.base hsame.exp k j, ?_⟩
  rw [State.placed_sub, hsame.sub, State.modSub_sub_self]

/-- The round-robin frame at `BUILD`: its target, the first enabled force actuator, is expected once more. -/
theorem pollFirst_entry {T : Topology} {i : Subnet} {s t : State} (hs : BanksSized s) (hrr : s.sub[i].rr = 0)
    (h : pollFirst T i s = .ok t) {k : DeviceClass} {j : Nat} (hj : j < s.cfg.bankSize k) :
    t.entry k j = (s.baseOf k j, if k = .fa ∧ (s.enabled T .fa i).head?.map (·.dataIndex) = some j then s.baseOf k j + 1
      else s.expOf k j) := by
  unfold pollFirst at h
  rw [hrr] at h
  cases hds : s.enabled T .fa i with
  | nil =>
    rw [hds] at h
    cases h
    rw [if_neg fun h => nomatch h.2]
    rfl
  | cons d ds =>
    rw [hds] at h
    have hexp := pollFrame_exp h
    have hbase : t.base = s.base := (pollFrame_moves (T := T) (b := false) (i := i) (o := s.cursor) h).update_keeps.1
    have hcount : s.baseOf .fa d.dataIndex + 1
        = (s.modSub i fun r => { r with pollOffset := some s.cursor }).baseOf .fa d.dataIndex + 1 := rfl
    rw [State.entry, baseOf_congr hbase, expOf_of_put (s := s) hexp ((hs k).1 ▸ hj), ← hcount, List.head?_cons, Option.map_some]
    refine congrArg _ ?_
    by_cases hkj : k = .fa ∧ j = d.dataIndex
    · rw [if_pos hkj, if_pos ⟨hkj.1, congrArg some hkj.2.symm⟩, hkj.1, hkj.2]
    · rw [if_neg hkj, if_neg fun h => hkj ⟨h.1, (Option.some.inj h.2).symm⟩]

theorem hasIndex_of_head {ds : List ILCMap} {j : Nat} (h : ds.head?.map (·.dataIndex) = some j) : hasIndex ds j = true := by
  obtain ⟨d, hd, rfl⟩ := Option.map_eq_some_iff.mp h
  exact hasIndex_iff.mpr ⟨d, List.mem_of_head? hd, rfl⟩

/-- What the FA section notes: one response of each enabled force actuator, one more of the first. -/
theorem faPart_entry {T : Topology} {P : Profile} {inp : Inputs} {i : Subnet} {s t : State} (hs : BanksSized s)
    (hrr : s.sub[i].rr = 0) (h : (if T[i].fa ≠ [] then faSection T P inp i s else .ok s) = .ok t) {k : DeviceClass} {j : Nat}
    (hj : j < s.cfg.bankSize k) :
    t.entry k j = if k = .fa ∧ P.faStatus = true ∧ hasIndex (s.enabled T .fa i) j = true
      then (1, if (s.enabled T .fa i).head?.map (·.dataIndex) = some j then 2 else 1) else s.entry k j := by
  by_cases hfa : T[i].fa = []
  · rw [if_neg (not_not.mpr hfa)] at h
    cases h
    rw [enabled_eq_nil (k := .fa) hfa, if_neg fun h => nomatch h.2.2]
  rw [if_pos hfa, faSection_eq] at h
  obtain ⟨u, hforce, h⟩ := bind_eq_ok.mp h
  have humoves : Moves T true s u := ite_moves (fun _ => buildForce_moves) hforce
  have hu : u.entry k j = s.entry k j ∧ u.sub[i].rr = s.sub[i].rr := by
    split at hforce
    · exact buildForce_entry hforce k j
    · cases hforce
      exact ⟨rfl, rfl⟩
  have husized := humoves.banksSized hs
  by_cases hP : P.faStatus = true
  swap
  · rw [if_neg hP] at h
    cases h
    rw [hu.1, if_neg fun h => hP h.2.1]
  rw [if_pos hP, buildStatus_eq] at h
  obtain ⟨w, hstatus, hpoll⟩ := bind_eq_ok.mp h
  have hwmoves : Moves T true u w := runAll_moves (fun _ _ _ => faStatusFrame_moves) hstatus
  have hwj : j < w.cfg.bankSize k := by rwa [hwmoves.kept.cfg, humoves.kept.cfg]
  have henabled : w.enabled T .fa i = s.enabled T .fa i :=
    State.enabled_congr (hwmoves.kept.disabled.trans humoves.kept.disabled) T .fa i
  have huenabled : u.enabled T .fa i = s.enabled T .fa i := State.enabled_congr humoves.kept.disabled T .fa i
  have hw := faStatusFrame_noting.entry husized hstatus (l := k) (j := j) (by rwa [humoves.kept.cfg])
  rw [huenabled, hu.1] at hw
  have hlast := pollFirst_entry (hwmoves.banksSized husized) (by rw [faStatusFrame_noting.sub hstatus, hu.2, hrr]) hpoll hwj
  rw [henabled] at hlast
  rw [hlast]
  by_cases hon : k = .fa ∧ hasIndex (s.enabled T .fa i) j = true
  · have hnoted : k = .fa ∧ P.faStatus = true ∧ hasIndex (s.enabled T .fa i) j = true := ⟨hon.1, hP, hon.2⟩
    rw [if_pos hon] at hw
    obtain ⟨hbase, hexp⟩ := Prod.mk.inj hw
    rw [hbase, hexp, if_pos hnoted]
    simp only [hon.1, true_and]
    rfl
  · have hnot : ¬ (k = .fa ∧ P.faStatus = true ∧ hasIndex (s.enabled T .fa i) j = true) := fun h => hon ⟨h.1, h.2.2⟩
    rw [if_neg hon] at hw
    rw [if_neg hnot, if_neg fun h => hon ⟨h.1, hasIndex_of_head h.2⟩]
    exact hw

theorem hpFrame_sameCounts {P : Profile} {inp : Inputs} {s t : State} (h : hpFrame P inp s = .ok t) : SameCounts s t := by
  unfold hpFrame at h
  split at h
  · exact scheduled_sameCounts h
  · cases h
    exact ⟨rfl, rfl, rfl, rfl, rfl, rfl⟩

/-- What the HP section notes: two responses of each enabled hardpoint actuator. -/
theorem hpPart_entry {T : Topology} {P : Profile} {inp : Inputs} {i : Subnet} {s t : State} (hs : BanksSized s)
    (h : (if T[i].hp ≠ [] then hpSection T P inp i s else .ok s) = .ok t) {k : DeviceClass} {j : Nat} (hj : j < s.cfg.bankSize k) :
    t.entry k j = if k = .hp ∧ P.hpStatus = true ∧ hasIndex (s.enabled T .hp i) j = true then (2, 2) else s.entry k j := by
  by_cases hhp : T[i].hp = []
  · rw [if_neg (not_not.mpr hhp)] at h
    cases h
    rw [enabled_eq_nil (k := .hp) hhp, if_neg fun h => nomatch h.2.2]
  rw [if_pos hhp, hpSection_eq] at h
  obtain ⟨u, hbroadcast, h⟩ := bind_eq_ok.mp h
  obtain ⟨hcfg, hbase, hexp, hdisabled⟩ : u.cfg = s.cfg ∧ u.base = s.base ∧ u.exp = s.exp ∧ u.disabled = s.disabled := by
    split at hbroadcast
    · cases hbroadcast
      exact ⟨rfl, rfl, rfl, rfl⟩
    · have hsame := hpFrame_sameCounts hbroadcast
      exact ⟨hsame.cfg, hsame.base, hsame.exp, hsame.disabled⟩
  have hentry : u.entry k j = s.entry k j := entry_congr hbase hexp k j
  by_cases hP : P.hpStatus = true
  · rw [if_pos hP, State.enabled_congr hdisabled] at h
    have husized : BanksSized u := fun l => by
      rw [hexp, hbase, hcfg]
      exact hs l
    rw [hpStatusFrames_noting.entry husized h (hcfg ▸ hj), hentry]
    simp only [hP, true_and]
  · rw [if_neg hP] at h
    cases h
    rw [hentry, if_neg fun h => hP h.2.1]

/-- What the HM section notes: three responses of each enabled hardpoint monitor. -/
theorem hmPart_entry {T : Topology} {P : Profile} {i : Subnet} {s t : State} (hs : BanksSized s)
    (h : (if T[i].hm ≠ [] then hmSection T P i s else .ok s) = .ok t) {k : DeviceClass} {j : Nat} (hj : j < s.cfg.bankSize k) :
    t.entry k j = if k = .hm ∧ P.hmStatus = true ∧ hasIndex (s.enabled T .hm i) j = true then (3, 3) else s.entry k j := by
  unfold hmSection at h
  by_cases hhm : T[i].hm = []
  · rw [if_neg (not_not.mpr hhm)] at h
    cases h
    rw [enabled_eq_nil (k := .hm) hhm, if_neg fun h => nomatch h.2.2]
  rw [if_pos hhm] at h
  by_cases hP : P.hmStatus = true
  · rw [if_pos hP] at h
    rw [hmStatusFrames_noting.entry hs h hj]
    simp only [hP, true_and]
  · rw [if_neg hP] at h
    cases h
    rw [if_neg fun h => hP h.2.1]

/-- What the LVDT block notes, the countdown at 0: one response more of each enabled hardpoint monitor. -/
theorem lvdtPart_entry {T : Topology} {P : Profile} {i : Subnet} {s t : State} (hs : BanksSized s) (hclock : s.lvdtClock = 0)
    (h : (if T[i].hm ≠ [] then lvdtSection T P i s else .ok s) = .ok t) {k : DeviceClass} {j : Nat} (hj : j < s.cfg.bankSize k) :
    t.entry k j = (s.baseOf k j, if k = .hm ∧ P.hmLVDT = true ∧ hasIndex (s.enabled T .hm i) j = true then s.baseOf k j + 1
      else s.expOf k j) := by
  unfold lvdtSection at h
  by_cases hall : P.hmLVDT = true ∧ s.enabled T .hm i ≠ []
  · have hhm : T[i].hm ≠ [] := fun hnil => hall.2 (enabled_eq_nil (k := .hm) hnil)
    rw [if_pos hhm, if_pos hall] at h
    have hmoves : Moves T false _ t := runAll_moves (fun _ _ _ => lvdtSlot_moves) h
    have hexp := lvdtSlots_expOf (s := s.modSub i fun r => { r with lvdtOffset := some s.cursor, hmSched := s.enabled T .hm i })
      hs h hj
    rw [State.entry, baseOf_congr (s := s) hmoves.update_keeps.1, hexp]
    refine congrArg _ ?_
    by_cases hon : k = .hm ∧ hasIndex (s.enabled T .hm i) j = true
    · rw [if_pos hon, if_pos (⟨hon.1, hall.1, hon.2⟩ : _ ∧ _ ∧ hasIndex (s.enabled T .hm i) j = true), hon.1]
      exact if_pos hclock
    · rw [if_neg hon, if_neg fun h => hon ⟨h.1, h.2.2⟩]
      rfl
  · rw [if_neg hall, ite_self] at h
    cases h
    rw [if_neg, State.entry]
    rintro ⟨-, hP, hon⟩
    obtain ⟨d, hd, -⟩ := hasIndex_iff.mp hon
    exact hall ⟨hP, List.ne_nil_of_mem hd⟩

/-! ## One block -/

/-- The frames of a class's devices stand in the profile. -/
def reportsOf (P : Profile) : DeviceClass → Bool
  | .fa => P.faStatus
  | .hp => P.hpStatus
  | .hm => P.hmStatus

/-- The device is the first round-robin target of the subnet, or has an LVDT slot on it. -/
def expectedMore (T : Topology) (P : Profile) (s : State) (i : Subnet) (j : Nat) : DeviceClass → Bool
  | .fa => P.faStatus && decide ((s.enabled T .fa i).head?.map (·.dataIndex) = some j)
  | .hp => false
  | .hm => P.hmLVDT && hasIndex (s.enabled T .hm i) j

/-- The counts `BUILD` leaves of a device that is enabled on the subnet. -/
def reported (T : Topology) (P : Profile) (s : State) (i : Subnet) (k : DeviceClass) (j : Nat) : BitVec 3 × BitVec 3 :=
  ((if reportsOf P k then baseCount k else 0),
    (if reportsOf P k then baseCount k else 0) + if expectedMore T P s i j k then 1 else 0)

theorem openSubnet_sameEntries {i : Subnet} {s t : State} (h : openSubnet i s = .ok t) : SameCounts s t := by
  obtain ⟨-, -, rfl⟩ := openSubnet_eq_ok.mp h
  exact ⟨rfl, rfl, rfl, rfl, rfl, rfl⟩

theorem closeSubnet_sameEntries {s t : State} (h : closeSubnet s = .ok t) : SameCounts s t := by
  obtain ⟨b, -, -, -, rfl⟩ := closeSubnet_eq_ok.mp h
  exact ⟨rfl, rfl, rfl, rfl, rfl, rfl⟩

/-- What a block notes: the counts of the devices enabled on its subnet, and of no other. -/
theorem buildSubnet_entry {T : Topology} {P : Profile} {inp : Inputs} {i : Subnet} {s t : State} (hs : BanksSized s)
    (hclock : s.lvdtClock = 0) (hrr : s.sub[i].rr = 0) (h : buildSubnet T P inp i s = .ok t) {k : DeviceClass} {j : Nat}
    (hj : j < s.cfg.bankSize k) (hzero : hasIndex (s.enabled T k i) j = true → s.entry k j = (0, 0)) :
    t.entry k j = if hasIndex (s.enabled T k i) j = true then reported T P s i k j else s.entry k j := by
  rw [buildSubnet_eq] at h
  obtain ⟨s1, hopen, h⟩ := bind_eq_ok.mp h
  obtain ⟨s5, hbody, hclose⟩ := bind_eq_ok.mp h
  rw [blockBody_eq] at hbody
  obtain ⟨s2, hfa, hbody⟩ := bind_eq_ok.mp hbody
  obtain ⟨s3, hhp, hbody⟩ := bind_eq_ok.mp hbody
  obtain ⟨s4, hhm, hlvdt⟩ := bind_eq_ok.mp hbody
  have h1 := openSubnet_sameEntries hopen
  have h5 := closeSubnet_sameEntries hclose
  have hm1 : Moves T true s s1 := openSubnet_moves hopen
  have hm2 : Moves T true s s2 := hm1.trans (ite_moves (fun _ => faSection_moves) hfa)
  have hm3 : Moves T true s s3 := hm2.trans (ite_moves (fun _ => hpSection_moves) hhp)
  have hm4 : Moves T true s s4 := hm3.trans (ite_moves (fun _ => hmSection_moves) hhm)
  have e2 := faPart_entry (hm1.banksSized hs) (by rw [h1.sub, hrr]) hfa (k := k) (j := j) (by rwa [hm1.kept.cfg])
  have e3 := hpPart_entry (hm2.banksSized hs) hhp (k := k) (j := j) (by rwa [hm2.kept.cfg])
  have e4 := hmPart_entry (hm3.banksSized hs) hhm (k := k) (j := j) (by rwa [hm3.kept.cfg])
  have e5 := lvdtPart_entry (hm4.banksSized hs) (hm4.kept.lvdtClock.trans hclock) hlvdt (k := k) (j := j) (by rwa [hm4.kept.cfg])
  rw [State.enabled_congr hm1.kept.disabled, entry_congr h1.base h1.exp] at e2
  rw [State.enabled_congr hm2.kept.disabled, e2] at e3
  rw [State.enabled_congr hm3.kept.disabled, e3] at e4
  rw [State.enabled_congr hm4.kept.disabled] at e5
  rw [entry_congr h5.base h5.exp, e5]
  by_cases hon : hasIndex (s.enabled T k i) j = true
  · have h0 := hzero hon
    rw [if_pos hon]
    cases k with
    | fa =>
      simp only [reduceCtorEq, false_and, if_false, true_and, hon, and_true, h0] at e4 ⊢
      refine (e4 : s4.entry .fa j = _).trans ?_
      by_cases hP : P.faStatus = true
      · by_cases hhead : (s.enabled T .fa i).head?.map (·.dataIndex) = some j <;>
          simp [reported, reportsOf, expectedMore, baseCount, hP, hhead]
      · simp [reported, reportsOf, expectedMore, hP]
    | hp =>
      simp only [reduceCtorEq, false_and, if_false, true_and, hon, and_true, h0] at e4 ⊢
      refine (e4 : s4.entry .hp j = _).trans ?_
      by_cases hP : P.hpStatus = true <;> simp [reported, reportsOf, expectedMore, baseCount, hP]
    | hm =>
      simp only [reduceCtorEq, false_and, if_false, true_and, hon, and_true, h0] at e4 ⊢
      have hnoted : s4.entry .hm j = (if P.hmStatus then 3 else 0, if P.hmStatus then 3 else 0) := by
        rw [e4]
        split <;> rfl
      obtain ⟨hbase, hexp⟩ := Prod.mk.inj hnoted
      have hcount : (if reportsOf P .hm then baseCount .hm else 0) = if P.hmStatus then (3 : BitVec 3) else 0 := rfl
      rw [hexp, hbase, reported, hcount]
      by_cases hP : P.hmLVDT = true <;> simp [expectedMore, hon, hP]
  · rw [if_neg hon]
    have hkeep : s4.entry k j = s.entry k j := by
      rw [e4]
      cases k <;> simp [hon]
    have hlvdt : ¬ (k = .hm ∧ P.hmLVDT = true ∧ hasIndex (s.enabled T .hm i) j = true) := by
      rintro ⟨rfl, -, h⟩
      exact hon h
    rw [if_neg hlvdt]
    exact hkeep

/-! ## The blocks one after another -/

theorem Composes.of_ok {r : Run} {s t : State} {ws : List Word} {R : Vector SubnetRegs 5} {k : Nat} (h : Composes r s ws R k)
    (hin : s.cursor.toNat ≤ s.cfg.capacity) (ht : r = .ok t) :
    s.cursor.toNat + ws.length ≤ s.cfg.capacity ∧ ∃ m e b, t = s.composed m ws.length R e b k := by
  by_cases hfit : s.cursor.toNat + ws.length ≤ s.cfg.capacity
  · obtain ⟨m, e, b, -, hr⟩ := h.ok hfit
    exact ⟨hfit, m, e, b, Except.ok.inj (ht.symm.trans hr)⟩
  · exact nomatch ht.symm.trans (h.overrun hin (Nat.lt_of_not_le hfit))

/-- `BUILD` under way from `s`: what the blocks of the subnets `pre` have noted. -/
structure Counted (T : Topology) (P : Profile) (inp : Inputs) (s : State) (pre : List Subnet) (u : State) : Prop where
  blocks : Blocks T P inp s pre u
  inside : u.cursor.toNat ≤ s.cfg.capacity
  sized : BanksSized u
  noted : ∀ k j, j < s.cfg.bankSize k → ∀ i ∈ pre, hasIndex (s.enabled T k i) j = true → u.entry k j = reported T P s i k j
  zero : ∀ k j, j < s.cfg.bankSize k → (∀ i ∈ pre, ¬ hasIndex (s.enabled T k i) j = true) → u.entry k j = (0, 0)

/-- With distinct indices a device is enabled on one subnet at most. -/
theorem DistinctIndices.enabled_eq {T : Topology} (h : DistinctIndices T) {s : State} {k : DeviceClass} {i m : Subnet} {j : Nat}
    (hi : hasIndex (s.enabled T k i) j = true) (hm : hasIndex (s.enabled T k m) j = true) : i = m := by
  obtain ⟨d, hd, rfl⟩ := hasIndex_iff.mp hi
  obtain ⟨e, he, hde⟩ := hasIndex_iff.mp hm
  exact h.subnet_eq (List.mem_filter.mp hd).1 (List.mem_filter.mp he).1 hde.symm

theorem expectedMore_congr {T : Topology} {P : Profile} {s u : State} (h : u.disabled = s.disabled) (i : Subnet) (j : Nat)
    (k : DeviceClass) : expectedMore T P u i j k = expectedMore T P s i j k := by
  cases k <;> simp only [expectedMore, State.enabled_congr h]

theorem reported_congr {T : Topology} {P : Profile} {s u : State} (h : u.disabled = s.disabled) (i : Subnet) (k : DeviceClass)
    (j : Nat) : reported T P u i k j = reported T P s i k j := by
  rw [reported, reported, expectedMore_congr h]

theorem Counted.next {T : Topology} {P : Profile} {inp : Inputs} {s u v : State} {pre xs : List Subnet} {i : Subnet}
    (hready : Composable T P inp s i) (hdistinct : DistinctIndices T) (hall : subnets = pre ++ i :: xs)
    (hu : Counted T P inp s pre u) (h : buildSubnet T P inp i u = .ok v) : Counted T P inp s (pre ++ [i]) v := by
  have hb := hu.blocks
  obtain ⟨hfit, m, e, b, hv⟩ := (hb.next hready hall).of_ok (by rw [hb.cfg]; exact hu.inside) h
  rw [hb.cfg] at hfit
  have hcur : (u.composed m (subnetImage T P inp s i).length
      (Vector.ofFn fun j => if j ∈ pre ++ [i] then builtRegs T P inp s j else SubnetRegs.initial) e b 1).cursor.toNat
      = u.cursor.toNat + (subnetImage T P inp s i).length := composed_cursor_toNat (hfit.trans hready.capacity)
  have hi : i ∉ pre := by
    have hnodup := nodup_subnets
    rw [hall] at hnodup
    exact fun hmem => List.disjoint_of_nodup_append hnodup hmem List.mem_cons_self
  have hrr : u.sub[i].rr = 0 := by
    rw [hb.sub]
    simp [hi, SubnetRegs.initial]
  have hother : ∀ k j, hasIndex (s.enabled T k i) j = true → ∀ m ∈ pre, ¬ hasIndex (s.enabled T k m) j = true :=
    fun k j hon m hm hmon => hi (hdistinct.enabled_eq hon hmon ▸ hm)
  have hentry : ∀ k j, j < s.cfg.bankSize k →
      v.entry k j = if hasIndex (s.enabled T k i) j = true then reported T P s i k j else u.entry k j := fun k j hj => by
    have hnow := buildSubnet_entry hu.sized hb.clock hrr h (k := k) (j := j) (by rwa [hb.cfg]) fun hon =>
      hu.zero k j hj (hother k j (by rwa [State.enabled_congr hb.disabled] at hon))
    rwa [State.enabled_congr hb.disabled, reported_congr hb.disabled] at hnow
  refine ⟨hv ▸ hb.composed hcur, by rw [hv, hcur]; exact hfit, (buildSubnet_moves h).1.banksSized hu.sized,
    fun k j hj m hm hon => ?_, fun k j hj hnone => ?_⟩
  · rw [hentry k j hj]
    rcases List.mem_append.mp hm with hm | hm
    · rw [if_neg fun h => hother k j h m hm hon]
      exact hu.noted k j hj m hm hon
    · obtain rfl := List.mem_singleton.mp hm
      rw [if_pos hon]
  · rw [hentry k j hj, if_neg (hnone i (List.mem_append_right pre List.mem_cons_self))]
    exact hu.zero k j hj fun m hm => hnone m (List.mem_append_left [i] hm)

theorem Counted.run {T : Topology} {P : Profile} {inp : Inputs} {s : State} (hready : ∀ i, Composable T P inp s i)
    (hdistinct : DistinctIndices T) {xs pre : List Subnet} {u v : State} (hall : subnets = pre ++ xs)
    (hu : Counted T P inp s pre u) (h : runAll (buildSubnet T P inp) xs u = .ok v) : Counted T P inp s subnets v := by
  induction xs generalizing pre u with
  | nil =>
    cases h
    rwa [hall, List.append_nil]
  | cons i xs ih =>
    obtain ⟨w, hw, h⟩ := bind_eq_ok.mp h
    exact ih (List.append_cons pre i xs ▸ hall) (hu.next (hready i) hdistinct hall hw) h

/-! ## The table as a whole -/

/-- Some subnet expects one response more of the device than its base count. -/
def expectedSome (T : Topology) (P : Profile) (s : State) (k : DeviceClass) (j : Nat) : Bool :=
  subnets.any fun i => expectedMore T P s i j k

theorem hasIndex_of_expectedMore {T : Topology} {P : Profile} {s : State} {i : Subnet} {k : DeviceClass} {j : Nat}
    (h : expectedMore T P s i j k = true) : hasIndex (s.enabled T k i) j = true := by
  cases k with
  | fa => exact hasIndex_of_head (by simpa using (Bool.and_eq_true_iff.mp h).2)
  | hp => exact nomatch h
  | hm => exact (Bool.and_eq_true_iff.mp h).2

theorem hasEnabled_iff {T : Topology} {s : State} {k : DeviceClass} {j : Nat} :
    hasEnabled T s k j = true ↔ ∃ i : Subnet, hasIndex (s.enabled T k i) j = true := by
  simp only [hasEnabled, List.any_eq_true (l := subnets)]
  exact ⟨fun ⟨i, _, h⟩ => ⟨i, h⟩, fun ⟨i, h⟩ => ⟨i, mem_subnets i, h⟩⟩

theorem expectedSome_iff {T : Topology} {P : Profile} {s : State} {k : DeviceClass} {j : Nat} :
    expectedSome T P s k j = true ↔ ∃ i : Subnet, expectedMore T P s i j k = true := by
  simp only [expectedSome, List.any_eq_true]
  exact ⟨fun ⟨i, _, h⟩ => ⟨i, h⟩, fun ⟨i, h⟩ => ⟨i, mem_subnets i, h⟩⟩

/-- The counts once all five blocks are composed. -/
theorem Counted.entry {T : Topology} {P : Profile} {inp : Inputs} {s u : State} (hdistinct : DistinctIndices T)
    (hu : Counted T P inp s subnets u) {k : DeviceClass} {j : Nat} (hj : j < s.cfg.bankSize k) :
    u.baseOf k j = (if reportsOf P k && hasEnabled T s k j then baseCount k else 0)
      ∧ u.expOf k j = u.baseOf k j + if expectedSome T P s k j then 1 else 0 := by
  by_cases hon : hasEnabled T s k j = true
  · obtain ⟨i, hi⟩ := hasEnabled_iff.mp hon
    obtain ⟨hbase, hexp⟩ := Prod.mk.inj (hu.noted k j hj i (mem_subnets i) hi)
    have hmore : expectedSome T P s k j = expectedMore T P s i j k := by
      rw [Bool.eq_iff_iff, expectedSome_iff]
      refine ⟨fun ⟨m, hm⟩ => ?_, fun h => ⟨i, h⟩⟩
      rwa [hdistinct.enabled_eq hi (hasIndex_of_expectedMore hm)]
    rw [hexp, hbase, hmore, hon, Bool.and_true]
    exact ⟨rfl, rfl⟩
  · obtain ⟨hbase, hexp⟩ := Prod.mk.inj (hu.zero k j hj fun i _ hi => hon (hasEnabled_iff.mpr ⟨i, hi⟩))
    have hmore : ¬ expectedSome T P s k j = true := fun h => by
      obtain ⟨i, hi⟩ := expectedSome_iff.mp h
      exact hon (hasEnabled_iff.mpr ⟨i, hasIndex_of_expectedMore hi⟩)
    rw [hexp, hbase, if_neg hmore, Bool.eq_false_iff.mpr hon, Bool.and_false]
    exact ⟨rfl, rfl⟩

/-- The round-robin targets recorded are the force actuators expected once more. -/
theorem isPolled_built {T : Topology} {P : Profile} {inp : Inputs} {s u : State}
    (hu : u.sub = Vector.ofFn (builtRegs T P inp s)) (j : Nat) : isPolled u j = expectedSome T P s .fa j := by
  have hdata : ∀ i : Subnet, decide (u.sub[i].pollData = some j) = expectedMore T P s i j .fa := fun i => by
    have hi : u.sub[i].pollData = if P.faStatus then (s.enabled T .fa i).head?.map (·.dataIndex) else none := by
      rw [hu]
      exact congrArg SubnetRegs.pollData (Vector.getElem_ofFn i.isLt)
    rw [hi, expectedMore]
    cases P.faStatus <;> simp
  simp only [isPolled, expectedSome, hdata]

/-- The slots recorded are those of the monitors expected once more. -/
theorem hasSlot_built {T : Topology} {P : Profile} {inp : Inputs} {s u : State}
    (hu : u.sub = Vector.ofFn (builtRegs T P inp s)) (j : Nat) : hasSlot u j = expectedSome T P s .hm j := by
  have hsched : ∀ i : Subnet, (u.sub[i].hmSched.any fun d => decide (d.dataIndex = j)) = expectedMore T P s i j .hm := fun i => by
    have hi : u.sub[i].hmSched = if P.hmLVDT then s.enabled T .hm i else [] := by
      rw [hu]
      exact congrArg SubnetRegs.hmSched (Vector.getElem_ofFn i.isLt)
    rw [hi, expectedMore, hasIndex]
    cases P.hmLVDT <;> simp
  simp only [hasSlot, expectedSome, hsched]

/-- The counts with which `BUILD` starts. -/
theorem entry_buildInit (x : Variant) (s : State) (k : DeviceClass) (j : Nat) : (buildInit x s).entry k j = (0, 0) := by
  have hfill : (((Banks.fill s.cfg (0 : BitVec 3)).bank k)[j]?).getD 0 = 0 := by
    rw [Banks.bank_fill, List.getElem?_replicate]
    split <;> rfl
  exact Prod.ext hfill hfill

theorem banksSized_buildInit (x : Variant) (s : State) : BanksSized (buildInit x s) := fun k =>
  ⟨(countsOk_fill s.cfg).expSize k, (countsOk_fill s.cfg).baseSize k⟩

/-- Settles O45: each block notes the counts of its own devices, which stand on no other subnet. -/
theorem buildFillsTheExpectedResponseTable : Obligations.BuildFillsTheExpectedResponseTable := by
  intro s T v x inp hready hv hfit _ hdistinct
  set P := s.cfg.profiles.profile x with hP
  obtain ⟨m, e, b, -, hrun⟩ := (buildRun_composes hready).ok (by rw [scheduleImage_length hready]; simpa using hfit)
  obtain ⟨u, hu⟩ : ∃ u, u = (buildInit x s).composed m (scheduleImage T P inp s).length (Vector.ofFn (builtRegs T P inp s)) e b 5 :=
    ⟨_, rfl⟩
  rw [← hu] at hrun
  have hsub : u.sub = Vector.ofFn (builtRegs T P inp s) := by rw [hu]; rfl
  have hcfg : u.cfg = s.cfg := by rw [hu]; rfl
  have hdisabled : u.disabled = s.disabled := by rw [hu]; rfl
  have hsched : buildSchedule v inp s = .ok (buildFinish u) := by
    rw [buildSchedule_ready hready hv]
    exact bind_eq_ok.mpr ⟨u, hrun, rfl⟩
  have hcounted : Counted T P inp s subnets u :=
    Counted.run hready.composable hdistinct rfl
      ⟨buildInit_blocks hready, Nat.zero_le _, banksSized_buildInit x s, fun _ _ _ _ hi => (nomatch hi),
        fun k j _ _ => entry_buildInit x s k j⟩ hrun
  obtain ⟨t, ht⟩ : ∃ t : State, t = { buildFinish u with out := .done } := ⟨_, rfl⟩
  have htcfg : t.cfg = s.cfg := by rw [ht]; exact hcfg
  have htbase : t.base = u.base := by rw [ht]; rfl
  have htsub : t.sub = Vector.ofFn (builtRegs T P inp s) := by rw [ht]; exact hsub
  have htdisabled : t.disabled = s.disabled := by rw [ht]; exact hdisabled
  have hentry : ∀ k j, j < t.cfg.bankSize k →
      t.baseOf k j = (if reportsOf P k && hasEnabled T s k j then baseCount k else 0)
        ∧ t.expOf k j = t.baseOf k j + if expectedSome T P s k j then 1 else 0 := fun k j hj => by
    rw [baseOf_congr htbase, expOf_congr (by rw [ht]; rfl : t.exp = u.exp)]
    exact hcounted.entry hdistinct (htcfg ▸ hj)
  have hcounts : ∀ k, BaseCounts T t k (reportsOf P k) (baseCount k).toNat := fun k j hj => by
    have henabled : hasEnabled T t k j = hasEnabled T s k j := by
      simp only [hasEnabled, State.enabled_congr htdisabled]
    rw [(hentry k j hj).1, henabled]
    split <;> rfl
  have hle : ∀ k j, j < t.cfg.bankSize k → (t.baseOf k j).toNat ≤ 3 := fun k j hj => by
    rw [(hentry k j hj).1]
    cases k <;> split <;> decide
  refine ⟨t, by rw [exec_build, hsched, ht]; rfl, by rw [ht], hcounts .fa, hcounts .hp, hcounts .hm,
    fun j hj => ?_, fun j hj => ?_, fun j hj => ?_⟩
  · rw [(hentry .fa j hj).2, isPolled_built htsub, toNat_add_indicator (hle .fa j hj)]
  · rw [(hentry .hp j hj).2]
    exact BitVec.add_zero _
  · rw [(hentry .hm j hj).2, hasSlot_built htsub, toNat_add_indicator (hle .hm j hj), Bool.true_and]

end Sys2Proof.Machine
end
